-- ==== Sys2Proof/Word.lean ====
section
/-! DEFINITION. The datapath word of the ARQ frame codec block: a byte (00_scope.md section 6.1). -/

namespace Sys2Proof

/-- A byte: 8 bits, unsigned, bit 0 the least significant (00_scope.md section 6.1). -/
abbrev Byte := BitVec 8

end Sys2Proof
end

