-- ==== Sys2Proof/Config.lean ====
section
/-! DEFINITION. The block's constants (00_scope.md rules R1 to R3). The one parameter, `TIMEOUT`, is
not here: it stands in `State` as a field no operation writes (log entry 1); here is only its
default. The model has no free value. -/

namespace Sys2Proof.Config

/-- `STX`, the frame start marker (R2). -/
abbrev stx : Byte := 0x02#8

/-- `ETX`, the frame end marker (R2). -/
abbrev etx : Byte := 0x03#8

/-- `ACK`, the acknowledgment unit (R2, R65). -/
abbrev ack : Byte := 0x06#8

/-- `MAX_LEN`, the largest payload length (R2). -/
abbrev maxLen : Nat := 255

/-- `BUF_CAP`, the bytes of each payload buffer (R3; the spec's decision D16). -/
abbrev bufCap : Nat := 255

/-- `TICK_W`, the width of the tick and deadline registers of a fixed-width realisation (R3; D4). -/
abbrev tickW : Nat := 32

/-- `RETX_W`, the width of the retransmission counter of a fixed-width realisation (R3; D4). -/
abbrev retxW : Nat := 32

/-- The default of `TIMEOUT` in ticks (R1). -/
abbrev defaultTimeout : Nat := 100

end Sys2Proof.Config
end

