-- ==== Sys2Proof/Syntax.lean ====
section
/-! DEFINITION. The enumerated registers and the ONE type of instructions: a constructor for each of
the 33 rows of spec/opcode_table.json. -/

namespace Sys2Proof

/-- `dec_state`, the decoder's continuation register: exactly five values (R11). -/
inductive DecState where
  | awaitStart
  | awaitLength
  | awaitPayload
  | awaitChecksum
  | awaitEnd
deriving DecidableEq, Repr

/-- `tx_phase`, the transmitter's continuation register: exactly seven values (R17). A `send…` phase
names the byte the next transmitter step emits. -/
inductive TxPhase where
  | idle
  | sendStart
  | sendLength
  | sendPayload
  | sendChecksum
  | sendEnd
  | awaitAck
deriving DecidableEq, Repr

/-- The operand of START_SEND, ENCODE_FRAME and FRAME: 0 to 255 bytes. A longer payload cannot be
written down (R83, decision D23, U7: refused by type). -/
structure Payload where
  bytes : List Byte
  short : bytes.length ≤ Config.maxLen
deriving DecidableEq, Repr

/-- The rows of spec/opcode_table.json, in the table's order. The first seven are the host operations
(R70; START_SEND has two rows, told apart by `tx_phase`). The others are the wire symbols and the
steps and transitions that run inside DECODE_STEP and TICK. A row of format DEC_BYTE whose match
leaves the byte open carries that byte. -/
inductive Instr where
  -- HOST_OP(op[2:0])
  | reset
  | startSend (payload : Payload)
  | startSendBusy (payload : Payload)
  | tick (rxEn : Bool)
  | decodeStep (byte : Byte)
  | checksum (bytes : List Byte)
  | encodeFrame (payload : Payload)
  -- WIRE_BYTE(b[7:0]) and WIRE_FRAME
  | stx
  | etx
  | ack
  | frame (payload : Payload)
  -- DEC_BYTE(dec_state, b[7:0])
  | decStartStx
  | decStartSkip (byte : Byte)
  | decLenZero
  | decLenNonzero (byte : Byte)
  | decPayload (byte : Byte)
  | decChkMatch (byte : Byte)
  | decChkMismatch (byte : Byte)
  | decEndEtx
  | decEndBad (byte : Byte)
  -- TX_STEP(tx_phase[2:0])
  | txIdle
  | txSendStart
  | txSendLength
  | txSendPayload
  | txSendChecksum
  | txSendEnd
  | txAwaitAckAck
  | txAwaitAckTimeout
  | txAwaitAckWait
  -- TICK_PART
  | rxStep
  | rxAckWrite
  | rxNotStepped
  | schedHandoff
deriving DecidableEq, Repr

end Sys2Proof
end

