-- ==== Sys2Proof/WellFormed.lean ====
section
/-! DEFINITION. Which terms of `Instr` stand for a row of the table. A row that the table lists AFTER
a more specific row of the same decoder state does not cover that row's byte (R72). The payload
bound needs no check: `Payload` carries it. The data-dependent match of DEC.CHK.MATCH is no check on
the term: it compares with a register. -/

namespace Sys2Proof

/-- The byte conditions of the rows DEC.START.SKIP, DEC.LEN.NONZERO and DEC.END.BAD (R92, R93, R98). -/
def Instr.wf : Instr → Bool
  | .reset => true
  | .startSend _ => true
  | .startSendBusy _ => true
  | .tick _ => true
  | .decodeStep _ => true
  | .checksum _ => true
  | .encodeFrame _ => true
  | .stx => true
  | .etx => true
  | .ack => true
  | .frame _ => true
  | .decStartStx => true
  | .decStartSkip b => b != Config.stx
  | .decLenZero => true
  | .decLenNonzero b => b != 0#8
  | .decPayload _ => true
  | .decChkMatch _ => true
  | .decChkMismatch _ => true
  | .decEndEtx => true
  | .decEndBad b => b != Config.etx
  | .txIdle => true
  | .txSendStart => true
  | .txSendLength => true
  | .txSendPayload => true
  | .txSendChecksum => true
  | .txSendEnd => true
  | .txAwaitAckAck => true
  | .txAwaitAckTimeout => true
  | .txAwaitAckWait => true
  | .rxStep => true
  | .rxAckWrite => true
  | .rxNotStepped => true
  | .schedHandoff => true

end Sys2Proof
end

