-- ==== Sys2Proof/Decode.lean ====
section
/-! DEFINITION. Encodings: the checksum and the frame on the wire (R60 to R65, R80), the ordinals of
the enumerated registers (R68, R69), the decoder of every encoding space of the opcode table, total on
any bytes and rejecting by name, and the encoder. -/

namespace Sys2Proof

/-! ## The frame on the wire -/

/-- `checksum(bytes)`: the XOR fold from 0x00 over the bytes in order (R80). -/
def checksum (bytes : List Byte) : Byte :=
  bytes.foldl (fun c b => c ^^^ b) 0x00#8

/-- The length of a payload as the byte LEN (R61): no scaling, no offset. -/
def payloadLen (p : Payload) : Byte :=
  BitVec.ofNat 8 p.bytes.length

/-- `encode_frame(payload)`: STX, LEN, PAYLOAD, CHK, ETX, one byte each but PAYLOAD (R60, R83). -/
def frameBytes (p : Payload) : List Byte :=
  [Config.stx, payloadLen p] ++ p.bytes ++ [checksum p.bytes, Config.etx]

/-! ## Ordinals on a port -/

/-- The 3-bit port value of `dec_state` (R68). -/
def DecState.ordinal : DecState → BitVec 3
  | .awaitStart => 0#3
  | .awaitLength => 1#3
  | .awaitPayload => 2#3
  | .awaitChecksum => 3#3
  | .awaitEnd => 4#3

/-- The 3-bit port value of `tx_phase` (R69). -/
def TxPhase.ordinal : TxPhase → BitVec 3
  | .idle => 0#3
  | .sendStart => 1#3
  | .sendLength => 2#3
  | .sendPayload => 3#3
  | .sendChecksum => 4#3
  | .sendEnd => 5#3
  | .awaitAck => 6#3

/-- The phase a port value stands for; 7 never occurs (R69, U11). -/
def TxPhase.ofOrdinal (v : BitVec 3) : Option TxPhase :=
  match v.toNat with
  | 0 => some .idle
  | 1 => some .sendStart
  | 2 => some .sendLength
  | 3 => some .sendPayload
  | 4 => some .sendChecksum
  | 5 => some .sendEnd
  | 6 => some .awaitAck
  | _ => none

/-! ## The rows a state selects (R72) -/

/-- The decoder row for a byte: first `dec_state`, then the byte, the more specific row first (R72). -/
def decRow (d : DecState) (rxChk b : Byte) : Instr :=
  match d with
  | .awaitStart => if b = Config.stx then .decStartStx else .decStartSkip b
  | .awaitLength => if b = 0#8 then .decLenZero else .decLenNonzero b
  | .awaitPayload => .decPayload b
  | .awaitChecksum => if b = rxChk then .decChkMatch b else .decChkMismatch b
  | .awaitEnd => if b = Config.etx then .decEndEtx else .decEndBad b

/-- The transmitter row: `tx_phase` alone, and in `AwaitAck` first `ack_received`, then whether
`tick >= deadline` (R72, R112). -/
def txRow (p : TxPhase) (ackReceived due : Bool) : Instr :=
  match p with
  | .idle => .txIdle
  | .sendStart => .txSendStart
  | .sendLength => .txSendLength
  | .sendPayload => .txSendPayload
  | .sendChecksum => .txSendChecksum
  | .sendEnd => .txSendEnd
  | .awaitAck =>
    if ackReceived then .txAwaitAckAck
    else if due then .txAwaitAckTimeout
    else .txAwaitAckWait

/-- The receiver row: `rx_en` (R72, R130, R132). -/
def rxRow (rxEn : Bool) : Instr :=
  if rxEn then .rxStep else .rxNotStepped

/-! ## The decoder -/

/-- Why bytes are no instruction of an encoding space. -/
inductive DecodeError where
  /-- There is no byte. -/
  | noByte
  /-- Operand bytes are missing. -/
  | truncated
  /-- A bit above the encoded field is set; no row has one. -/
  | highBits
  /-- Selector 6 or 7: not an operation (R70, U4). -/
  | notAnOperation (selector : Nat)
  /-- An operand that is one bit wide is neither 0 nor 1. -/
  | notABit (byte : Byte)
  /-- The byte is no control byte: only 0x02, 0x03 and 0x06 are (R66). -/
  | notAControlByte (byte : Byte)
  /-- A frame begins with STX (R60). -/
  | notStx (byte : Byte)
  /-- CHK is not the checksum of the payload (R63). -/
  | wrongChecksum (byte : Byte)
  /-- A frame ends with ETX (R60). -/
  | notEtx (byte : Byte)
  /-- The value selects no row of the space (R69, R71, R143). -/
  | noRow (byte : Byte)
deriving DecidableEq, Repr

/-- The encoding spaces of the opcode table, its column "format". Each carries what, beside the bytes,
the table's row conditions read: the same bits stand for different rows in different spaces. -/
inductive Space where
  /-- HOST_OP(op[2:0]); `idle` says whether `tx_phase = Idle` (R110, R111). -/
  | hostOp (idle : Bool)
  /-- WIRE_BYTE(b[7:0]). -/
  | wireByte
  /-- WIRE_FRAME(LEN+4 bytes). -/
  | wireFrame
  /-- DEC_BYTE(dec_state, b[7:0]); `rxChk` is the data-dependent match of R95. -/
  | decByte (d : DecState) (rxChk : Byte)
  /-- TX_STEP(tx_phase[2:0]); the two conditions of `AwaitAck` (R118 to R120). -/
  | txStep (ackReceived due : Bool)
  /-- TICK_PART(rx_en). -/
  | rxEnable
  /-- TICK_PART(decoder result). -/
  | decoderResult
  /-- TICK_PART(ack_out). -/
  | ackOut
deriving DecidableEq, Repr

/-- What decoding answers: a value and the bytes after it, or why not. -/
abbrev Decoded (α : Type) := Except DecodeError (α × List Byte)

/-- The first `n` bytes as a payload, `n` a byte. DESIGN CHOICE (log entry 3). -/
def takePayload : List Byte → Decoded Payload
  | [] => .error .truncated
  | n :: rest =>
    if rest.length < n.toNat then .error .truncated
    else .ok (⟨rest.take n.toNat, by have := n.isLt; simp only [List.length_take, Config.maxLen]; omega⟩, rest.drop n.toNat)

/-- CHECKSUM's operand, a sequence of any length: each byte follows a 0x01, and a 0x00 ends it.
DESIGN CHOICE (log entry 3). -/
def takeFlagged : List Byte → Decoded (List Byte)
  | [] => .error .truncated
  | [m] => if m = 0#8 then .ok ([], []) else if m = 1#8 then .error .truncated else .error (.notABit m)
  | m :: b :: rest =>
    if m = 0#8 then .ok ([], b :: rest)
    else if m = 1#8 then
      match takeFlagged rest with
      | .ok (bs, after) => .ok (b :: bs, after)
      | .error e => .error e
    else .error (.notABit m)

/-- One byte that holds one bit. -/
def takeBit : List Byte → Decoded Bool
  | [] => .error .truncated
  | b :: rest => if b = 0#8 then .ok (false, rest) else if b = 1#8 then .ok (true, rest) else .error (.notABit b)

/-- One operand byte. -/
def takeByte : List Byte → Decoded Byte
  | [] => .error .truncated
  | b :: rest => .ok (b, rest)

/-- An instruction from its decoded operand. -/
def withOperand {α : Type} (f : α → Instr) : Decoded α → Decoded Instr
  | .ok (a, rest) => .ok (f a, rest)
  | .error e => .error e

/-- HOST_OP: the selector is `op[2:0]`, the five bits above it are 0, the operand follows (R70; the
carriage of operands is a DESIGN CHOICE, log entry 3). -/
def decodeHostOp (idle : Bool) : List Byte → Decoded Instr
  | [] => .error .noByte
  | c :: rest =>
    if c.extractLsb' 3 5 ≠ 0#5 then .error .highBits
    else
      match (c.extractLsb' 0 3).toNat with
      | 0 => .ok (.reset, rest)
      | 1 => withOperand (if idle then .startSend else .startSendBusy) (takePayload rest)
      | 2 => withOperand .tick (takeBit rest)
      | 3 => withOperand .decodeStep (takeByte rest)
      | 4 => withOperand .checksum (takeFlagged rest)
      | 5 => withOperand .encodeFrame (takePayload rest)
      | n => .error (.notAnOperation n)

/-- WIRE_BYTE: the three control bytes (R66). -/
def decodeWireByte : List Byte → Decoded Instr
  | [] => .error .noByte
  | b :: rest =>
    if b = Config.stx then .ok (.stx, rest)
    else if b = Config.etx then .ok (.etx, rest)
    else if b = Config.ack then .ok (.ack, rest)
    else .error (.notAControlByte b)

/-- WIRE_FRAME: STX, LEN, LEN payload bytes, their checksum, ETX (R60 to R63). -/
def decodeWireFrame : List Byte → Decoded Instr
  | [] => .error .noByte
  | s :: rest =>
    if s ≠ Config.stx then .error (.notStx s)
    else
      match takePayload rest with
      | .error e => .error e
      | .ok (_, []) => .error .truncated
      | .ok (_, [_]) => .error .truncated
      | .ok (p, c :: e :: after) =>
        if c ≠ checksum p.bytes then .error (.wrongChecksum c)
        else if e ≠ Config.etx then .error (.notEtx e)
        else .ok (.frame p, after)

/-- TX_STEP: the phase is `b[2:0]`, the five bits above it are 0 (R69, R72). -/
def decodeTxStep (ackReceived due : Bool) : List Byte → Decoded Instr
  | [] => .error .noByte
  | b :: rest =>
    if b.extractLsb' 3 5 ≠ 0#5 then .error .highBits
    else
      match TxPhase.ofOrdinal (b.extractLsb' 0 3) with
      | some p => .ok (txRow p ackReceived due, rest)
      | none => .error (.noRow b)

/-- TICK_PART(decoder result) and TICK_PART(ack_out): a row only for the value 1 (R131, R143). -/
def decodeWhenOne (i : Instr) : List Byte → Decoded Instr
  | [] => .error .noByte
  | b :: rest => if b = 1#8 then .ok (i, rest) else .error (.noRow b)

/-- The decoder of an encoding space: one instruction off the front of any bytes, or a refusal by
name. -/
def decodeIn (sp : Space) (bytes : List Byte) : Decoded Instr :=
  match sp with
  | .hostOp idle => decodeHostOp idle bytes
  | .wireByte => decodeWireByte bytes
  | .wireFrame => decodeWireFrame bytes
  | .decByte d rxChk => withOperand (decRow d rxChk) (takeByte bytes)
  | .txStep ackReceived due => decodeTxStep ackReceived due bytes
  | .rxEnable => withOperand rxRow (takeBit bytes)
  | .decoderResult => decodeWhenOne .rxAckWrite bytes
  | .ackOut => decodeWhenOne .schedHandoff bytes

/-! ## The encoder -/

/-- A payload behind its length byte (log entry 3). -/
def lengthPrefixed (p : Payload) : List Byte :=
  payloadLen p :: p.bytes

/-- CHECKSUM's operand as `takeFlagged` reads it (log entry 3). -/
def flagged : List Byte → List Byte
  | [] => [0#8]
  | b :: bs => 1#8 :: b :: flagged bs

/-- The bytes of an instruction in the encoding space its row belongs to. -/
def encode : Instr → List Byte
  | .reset => [0#8]
  | .startSend p => 1#8 :: lengthPrefixed p
  | .startSendBusy p => 1#8 :: lengthPrefixed p
  | .tick rxEn => [2#8, if rxEn then 1#8 else 0#8]
  | .decodeStep b => [3#8, b]
  | .checksum bs => 4#8 :: flagged bs
  | .encodeFrame p => 5#8 :: lengthPrefixed p
  | .stx => [Config.stx]
  | .etx => [Config.etx]
  | .ack => [Config.ack]
  | .frame p => frameBytes p
  | .decStartStx => [Config.stx]
  | .decStartSkip b => [b]
  | .decLenZero => [0#8]
  | .decLenNonzero b => [b]
  | .decPayload b => [b]
  | .decChkMatch b => [b]
  | .decChkMismatch b => [b]
  | .decEndEtx => [Config.etx]
  | .decEndBad b => [b]
  | .txIdle => [TxPhase.idle.ordinal.setWidth 8]
  | .txSendStart => [TxPhase.sendStart.ordinal.setWidth 8]
  | .txSendLength => [TxPhase.sendLength.ordinal.setWidth 8]
  | .txSendPayload => [TxPhase.sendPayload.ordinal.setWidth 8]
  | .txSendChecksum => [TxPhase.sendChecksum.ordinal.setWidth 8]
  | .txSendEnd => [TxPhase.sendEnd.ordinal.setWidth 8]
  | .txAwaitAckAck => [TxPhase.awaitAck.ordinal.setWidth 8]
  | .txAwaitAckTimeout => [TxPhase.awaitAck.ordinal.setWidth 8]
  | .txAwaitAckWait => [TxPhase.awaitAck.ordinal.setWidth 8]
  | .rxStep => [1#8]
  | .rxAckWrite => [1#8]
  | .rxNotStepped => [0#8]
  | .schedHandoff => [1#8]

/-- Whether a row belongs to an encoding space AND its condition holds for what the space carries:
the table's columns "format", "dec_state", "tx_phase" and "condition". -/
def Instr.inSpace (sp : Space) : Instr → Bool
  | .reset => match sp with | .hostOp _ => true | _ => false
  | .startSend _ => match sp with | .hostOp idle => idle | _ => false
  | .startSendBusy _ => match sp with | .hostOp idle => !idle | _ => false
  | .tick _ => match sp with | .hostOp _ => true | _ => false
  | .decodeStep _ => match sp with | .hostOp _ => true | _ => false
  | .checksum _ => match sp with | .hostOp _ => true | _ => false
  | .encodeFrame _ => match sp with | .hostOp _ => true | _ => false
  | .stx => sp == .wireByte
  | .etx => sp == .wireByte
  | .ack => sp == .wireByte
  | .frame _ => sp == .wireFrame
  | .decStartStx => match sp with | .decByte d _ => d == .awaitStart | _ => false
  | .decStartSkip b => match sp with | .decByte d _ => d == .awaitStart && b != Config.stx | _ => false
  | .decLenZero => match sp with | .decByte d _ => d == .awaitLength | _ => false
  | .decLenNonzero b => match sp with | .decByte d _ => d == .awaitLength && b != 0#8 | _ => false
  | .decPayload _ => match sp with | .decByte d _ => d == .awaitPayload | _ => false
  | .decChkMatch b => match sp with | .decByte d c => d == .awaitChecksum && b == c | _ => false
  | .decChkMismatch b => match sp with | .decByte d c => d == .awaitChecksum && b != c | _ => false
  | .decEndEtx => match sp with | .decByte d _ => d == .awaitEnd | _ => false
  | .decEndBad b => match sp with | .decByte d _ => d == .awaitEnd && b != Config.etx | _ => false
  | .txIdle => match sp with | .txStep _ _ => true | _ => false
  | .txSendStart => match sp with | .txStep _ _ => true | _ => false
  | .txSendLength => match sp with | .txStep _ _ => true | _ => false
  | .txSendPayload => match sp with | .txStep _ _ => true | _ => false
  | .txSendChecksum => match sp with | .txStep _ _ => true | _ => false
  | .txSendEnd => match sp with | .txStep _ _ => true | _ => false
  | .txAwaitAckAck => match sp with | .txStep a _ => a | _ => false
  | .txAwaitAckTimeout => match sp with | .txStep a d => !a && d | _ => false
  | .txAwaitAckWait => match sp with | .txStep a d => !a && !d | _ => false
  | .rxStep => sp == .rxEnable
  | .rxAckWrite => sp == .decoderResult
  | .rxNotStepped => sp == .rxEnable
  | .schedHandoff => sp == .ackOut

/-- The opcode table's columns (match, mask) for the first encoded byte, row by row. -/
def tableMatch : Instr → Byte × Byte
  | .reset => (0x0, 0x7)
  | .startSend _ => (0x1, 0x7)
  | .startSendBusy _ => (0x1, 0x7)
  | .tick _ => (0x2, 0x7)
  | .decodeStep _ => (0x3, 0x7)
  | .checksum _ => (0x4, 0x7)
  | .encodeFrame _ => (0x5, 0x7)
  | .stx => (0x02, 0xFF)
  | .etx => (0x03, 0xFF)
  | .ack => (0x06, 0xFF)
  | .frame _ => (0x02, 0xFF)
  | .decStartStx => (0x02, 0xFF)
  | .decStartSkip _ => (0x00, 0x00)
  | .decLenZero => (0x00, 0xFF)
  | .decLenNonzero _ => (0x00, 0x00)
  | .decPayload _ => (0x00, 0x00)
  | .decChkMatch _ => (0x00, 0x00)
  | .decChkMismatch _ => (0x00, 0x00)
  | .decEndEtx => (0x03, 0xFF)
  | .decEndBad _ => (0x00, 0x00)
  | .txIdle => (0x0, 0x7)
  | .txSendStart => (0x1, 0x7)
  | .txSendLength => (0x2, 0x7)
  | .txSendPayload => (0x3, 0x7)
  | .txSendChecksum => (0x4, 0x7)
  | .txSendEnd => (0x5, 0x7)
  | .txAwaitAckAck => (0x6, 0x7)
  | .txAwaitAckTimeout => (0x6, 0x7)
  | .txAwaitAckWait => (0x6, 0x7)
  | .rxStep => (0x1, 0x1)
  | .rxAckWrite => (0x1, 0x3)
  | .rxNotStepped => (0x0, 0x1)
  | .schedHandoff => (0x1, 0x1)

/-! ## The host's numbering of a table word -/

/-- The low `8 * n` bits of `w` as `n` bytes, the least significant first. -/
def wordBytes : Nat → Nat → List Byte
  | 0, _ => []
  | n + 1, w => BitVec.ofNat 8 w :: wordBytes n (w / 256)

/-- A table word as the host numbers it, with operand bytes of zeros after it: two, and as many more as
its second byte says, since that byte may be a payload's length. No host operation needs more. -/
def tableWordBytes (nbits w : Nat) : List Byte :=
  wordBytes ((nbits + 7) / 8) w ++ List.replicate (w / 256 % 256 + 2) 0#8

/-- What the host port's decoder reads from a table word, with no session in progress. The rows of the
other spaces share these words (word 0 is RESET, TX.IDLE, RX.NOTSTEPPED and DEC.LEN.ZERO): on the
host port a word is a host operation (R70; log entry 4). -/
def decodeTableWord (nbits w : Nat) : Option Instr :=
  match decodeIn (.hostOp true) (tableWordBytes nbits w) with
  | .ok (i, _) => some i
  | .error _ => none

end Sys2Proof
end

