-- ==== Sys2Proof/Machine/State.lean ====
section
/-! DEFINITION. The state record of the block (10_state.md), the results of its operations (R71), and
the reasons a step can stop. -/

namespace Sys2Proof.Machine

/-- The cause of a decoder `Error` (R161, R71). -/
inductive Cause where
  | checksumMismatch
  | framingError
deriving DecidableEq, Repr

/-- The decoder's result (R71, R101): `ok` hands over the payload and its length. -/
inductive DecResult where
  | inProgress
  | ok (payload : List Byte) (length : Byte)
  | error (cause : Cause)
deriving DecidableEq, Repr

/-- The receiver's result (R71, R130): what the decoder made of the byte, or no byte, or not stepped. -/
inductive RxResult where
  | decoded (r : DecResult)
  | noByte
  | notStepped
deriving DecidableEq, Repr

/-- The transmitter's result (R71, R112). -/
inductive TxResult where
  | idle
  | pending
  | sent
deriving DecidableEq, Repr

/-- The result of START_SEND (R71, R110, R111). -/
inductive StartResult where
  | accepted
  | busy
deriving DecidableEq, Repr

/-- What the last executed row returned: the result of a host operation (R70), or of a step that runs
inside one, the wire `ack_out` included (R29). The MODEL's own (log entry 2): the spec returns a result
and latches none. -/
inductive OpResult where
  | none
  | start (r : StartResult)
  | tick (tx : TxResult) (rx : RxResult)
  | decoder (r : DecResult)
  | checksum (value : Byte)
  | frame (bytes : List Byte)
  | transmitter (r : TxResult)
  | receiver (r : RxResult) (ackOut : Bool)
deriving DecidableEq, Repr

/-- A payload buffer: the bytes written, by index, strictly rising. An index that is not listed holds a
byte without a specified value (R15, R21), which reads as no value (log entry 5). -/
abbrev Memory := List Host.Cell

/-- Why the machine stops with a fault. The spec has no fault (R47, R166): both reasons are raised only
in states that no run reaches, where the spec gives no effect (log entry 6). -/
inductive Fault where
  /-- Raised by a buffer access at index 255, outside `0 .. 254` (R40, R47). Safe. -/
  | bufferIndexOutOfRange
  /-- Raised by a read of a buffer byte that no operation has written (R15, R21). Safe. -/
  | unwrittenBufferByte
deriving DecidableEq, Repr

/-- Why a step has no meaning for what it is given. -/
inductive Refusal where
  /-- Raised by `exec` for a row without a meaning yet. No row of this model is left so. Safe. -/
  | notModelled (mnemonic : String)
  /-- Raised by the meaning of a row whose condition the state does not meet: the spec gives a row its
  effect in the states that select it and in no other (R72, R112; log entry 7). No step runs a row that
  its state does not select. Safe. -/
  | rowNotSelected
  /-- Raised by `step` when the host port's bytes are no host operation: selectors 6 and 7 (R70, U4), or
  operands that the port's carriage does not admit (log entry 3). Safe. -/
  | notAHostOperation (e : DecodeError)
deriving DecidableEq, Repr

/-- The state: every register of R10, then what is not state of the spec's: the parameter `TIMEOUT`
(R28; log entry 1), the host's bytes not yet consumed and the last result (log entry 2), and two marks that
only the host's view reads (log entry 12). -/
structure State where
  /-- `dec_state` (R11). -/
  decState : DecState
  /-- `rx_len` (R12). -/
  rxLen : Byte
  /-- `rx_count` (R13). -/
  rxCount : Byte
  /-- `rx_chk` (R14). -/
  rxChk : Byte
  /-- `rx_buf[0..254]` (R15). -/
  rxBuf : Memory
  /-- `tx_phase` (R17). -/
  txPhase : TxPhase
  /-- `tx_idx` (R18). -/
  txIdx : Byte
  /-- `tx_len` (R19). -/
  txLen : Byte
  /-- `tx_chk` (R20). -/
  txChk : Byte
  /-- `tx_buf[0..254]` (R21). -/
  txBuf : Memory
  /-- `retx_count`, a natural number (R22, R31; log entry 10). -/
  retxCount : Nat
  /-- `deadline`, a natural number (R23, R31; log entry 10). -/
  deadline : Nat
  /-- `tick`, a natural number (R25, R31; log entry 10). -/
  tick : Nat
  /-- `ack_received` (R26). -/
  ackReceived : Bool
  /-- `ch_len` and `ch_data` as an optional byte (R27, D27, U2; log entry 9). -/
  channel : Option Byte
  /-- The parameter `TIMEOUT`: no operation writes it (R1, R28; log entry 1). -/
  timeout : Nat
  /-- The host port: operation bytes issued and not yet consumed. The MODEL's own (log entry 2). -/
  port : List Byte
  /-- The last result. The MODEL's own (log entry 2). -/
  result : OpResult
  /-- Whether the decoder has returned `Ok` and since then neither accepted an STX nor been reset, so that
  `rx_buf[0..rx_len)` is a delivered payload (R97, R186). The MODEL's own: what the host knows from the
  results it was given. Only `hostView` reads it (log entry 12). -/
  delivered : Bool
  /-- How many bytes of `rx_buf` have been written since RESET; they are the first ones, since each frame is
  stored from index 0 on. A byte at or above it has no specified value (R15, R181). The MODEL's own: only
  `hostView` reads it (log entry 12). -/
  rxWritten : Nat
deriving DecidableEq, Repr

/-- The machine after reset (R33): no session, the decoder in `AwaitStart`, the channel empty, every
counter 0, no buffer byte with a specified value, `TIMEOUT` at its default (R1), no operation issued. -/
def State.reset : State where
  decState := .awaitStart
  rxLen := 0#8
  rxCount := 0#8
  rxChk := 0#8
  rxBuf := []
  txPhase := .idle
  txIdx := 0#8
  txLen := 0#8
  txChk := 0#8
  txBuf := []
  retxCount := 0
  deadline := 0
  tick := 0
  ackReceived := false
  channel := none
  timeout := Config.defaultTimeout
  port := []
  result := .none
  delivered := false
  rxWritten := 0

end Sys2Proof.Machine
end

