-- ==== Sys2Proof/Machine/Ops.lean ====
section
/-! DEFINITION. The operations that meanings share: sequencing, the buffers (R40, R47, R50), the channel
(R41 to R44), and the two recoveries that stand for taking an exception (R160, R169). -/

namespace Sys2Proof.Machine

/-! ## Sequencing -/

/-- An operation's outcome with a value. -/
abbrev Outcome (α : Type) := Host.Outcome α Fault Refusal

/-- Do `f` after a next state; a stop stays the stop it is. -/
def andThen {α β : Type} (o : Outcome α) (f : α → Outcome β) : Outcome β :=
  match o with
  | .next a => f a
  | .fault r => .fault r
  | .refused r => .refused r

/-- `s` with what an operation returned put on the result wires (log entry 2). -/
def State.withResult (s : State) (r : OpResult) : State :=
  { s with result := r }

/-- End a row: its result, seen as an `OpResult`, goes on the result wires. -/
def report {α : Type} (f : α → OpResult) (o : Outcome (State × α)) : Outcome State :=
  andThen o fun (s, a) => .next (s.withResult (f a))

/-- A row's meaning in the states that select it (log entry 7). -/
def whenSelected (condition : Bool) (o : Outcome State) : Outcome State :=
  if condition then o else .refused .rowNotSelected

/-! ## The payload buffers -/

/-- What an index that is not listed reads as: no specified value (R15, R21; log entry 5). -/
def Memory.unlisted : Option Byte :=
  none

/-- Byte `i`, or no value. -/
def Memory.read (m : Memory) (i : Nat) : Option Byte :=
  match m with
  | [] => Memory.unlisted
  | (k, v) :: rest => if k = i then some v else Memory.read rest i

/-- `m` with byte `i` set, the indexes strictly rising. -/
def Memory.write (m : Memory) (i : Nat) (b : Byte) : Memory :=
  match m with
  | [] => [(i, b)]
  | (k, v) :: rest =>
    if i < k then (i, b) :: (k, v) :: rest
    else if i = k then (i, b) :: rest
    else (k, v) :: Memory.write rest i b

/-- Whether the indexes rise strictly from `low` on and stay inside the buffer. -/
def Memory.wfFrom (m : Memory) (low : Nat) : Bool :=
  match m with
  | [] => true
  | (k, _) :: rest => decide (low ≤ k) && decide (k < Config.bufCap) && Memory.wfFrom rest (k + 1)

/-- The canonical form. An unlisted index has no value, so no entry can equal it. -/
def Memory.wf (m : Memory) : Bool :=
  Memory.wfFrom m 0

/-- Bytes `0 .. n - 1`, if each has a value. -/
def Memory.slice (m : Memory) (n : Nat) : Option (List Byte) :=
  match n with
  | 0 => some []
  | n + 1 =>
    match Memory.slice m n, Memory.read m n with
    | some bs, some b => some (bs ++ [b])
    | _, _ => none

/-- `m` with `bs` written from index `i` on. -/
def Memory.load (m : Memory) (i : Nat) (bs : List Byte) : Memory :=
  match bs with
  | [] => m
  | b :: rest => Memory.load (Memory.write m i b) (i + 1) rest

/-- Read of one buffer byte by a step (R47): index 255 is outside the buffer. -/
def bufRead (m : Memory) (i : Byte) : Outcome Byte :=
  if i.toNat < Config.bufCap then
    match m.read i.toNat with
    | some b => .next b
    | none => .fault .unwrittenBufferByte
  else .fault .bufferIndexOutOfRange

/-- Write of one buffer byte by a step (R47). -/
def bufWrite (m : Memory) (i b : Byte) : Outcome Memory :=
  if i.toNat < Config.bufCap then .next (m.write i.toNat b)
  else .fault .bufferIndexOutOfRange

/-- `buf[0..n)` as a payload (R97). -/
def bufPayload (m : Memory) (n : Byte) : Outcome (List Byte) :=
  match m.slice n.toNat with
  | some bs => .next bs
  | none => .fault .unwrittenBufferByte

/-! ## The channel -/

/-- `ChWrite(b)`: unconditional; an unread byte is lost (R43, decision D6). -/
def chWrite (b : Byte) (s : State) : State :=
  { s with channel := some b }

/-- Emptying the slot: `ch_len <- 0`. -/
def chClear (s : State) : State :=
  { s with channel := none }

/-- `ChValid()` and `ChRead()` in one match: the byte and the state with the slot emptied, or nothing
to read (R44, U10). -/
def chRead (s : State) : Option (Byte × State) :=
  match s.channel with
  | some b => some (b, chClear s)
  | none => none

/-! ## Taking an exception -/

/-- `raise Error(cause)`: the decoder goes to `AwaitStart` and returns the cause; nothing else is
written and nothing is saved, so there is no return operation (R160, R169, R170). -/
def raiseError (cause : Cause) (s : State) : State × DecResult :=
  ({ s with decState := .awaitStart }, .error cause)

/-- AckTimeout: count it, emit the STX of the next attempt, go on with LEN (R119, R165, R169). -/
def takeAckTimeout (s : State) : State × TxResult :=
  (chWrite Config.stx { s with retxCount := s.retxCount + 1, txPhase := .sendLength }, .pending)

end Sys2Proof.Machine
end

