-- ==== Sys2Proof/Machine/Flags.lean ====
section
/-! DEFINITION. The conditions that steps test. The block has no arithmetic flags (R32): its one-bit
state is `ack_received` and the channel's valid count, and the two blocking conditions are over them
and the tick. -/

namespace Sys2Proof.Machine

/-- `ChValid()`: the slot holds an unread byte (R27, R32). -/
def chValid (s : State) : Bool :=
  s.channel.isSome

/-- `tick >= deadline`, on natural numbers (R23, R119, decision D12). -/
def ackDue (s : State) : Bool :=
  decide (s.deadline ≤ s.tick)

/-- The transmitter's blocking condition in `AwaitAck` (R32). -/
def ackOrDue (s : State) : Bool :=
  s.ackReceived || ackDue s

/-- Whether no session is in progress: START_SEND is accepted (R110, R111). -/
def sessionIdle (s : State) : Bool :=
  s.txPhase == .idle

/-- The last result is a decoder `Ok`: the condition of RX.ACKWRITE (R131). -/
def decoderReturnedOk (s : State) : Bool :=
  match s.result with
  | .decoder (.ok _ _) => true
  | _ => false

/-- The last result carries `ack_out = 1`: the condition of SCHED.HANDOFF (R143). -/
def ackOutRaised (s : State) : Bool :=
  match s.result with
  | .receiver _ true => true
  | _ => false

/-- The encoding spaces in a state: what the table's row conditions read there (R72). -/
def hostSpace (s : State) : Space :=
  .hostOp (sessionIdle s)

/-- The decoder's space in a state: `dec_state`, and `rx_chk` for DEC.CHK.MATCH (R72, R95). -/
def decSpace (s : State) : Space :=
  .decByte s.decState s.rxChk

/-- The transmitter's space in a state (R72, R112). -/
def txSpace (s : State) : Space :=
  .txStep s.ackReceived (ackDue s)

end Sys2Proof.Machine
end

