-- ==== Sys2Proof/Machine/Operands.lean ====
section
/-! DEFINITION. The operands and results at the block's port: the port values of results (R71), what
the host can read between operations (R30), the row each machine's state selects (R72). -/

namespace Sys2Proof.Machine

/-- The cause on a port; 0 stands for none (R71, R161). -/
def Cause.code : Cause → Nat
  | .checksumMismatch => 1
  | .framingError => 2

/-- The decoder's result on a port (R71). -/
def DecResult.code : DecResult → Nat
  | .inProgress => 0
  | .ok _ _ => 1
  | .error _ => 2

/-- The cause that goes with a decoder result on a port (R71). -/
def DecResult.causeCode : DecResult → Nat
  | .inProgress => 0
  | .ok _ _ => 0
  | .error c => c.code

/-- The receiver's result on a port (R71). -/
def RxResult.code : RxResult → Nat
  | .decoded r => r.code
  | .noByte => 3
  | .notStepped => 4

/-- The transmitter's result on a port (R71). -/
def TxResult.code : TxResult → Nat
  | .idle => 0
  | .pending => 1
  | .sent => 2

/-- The result of START_SEND on a port (R71). -/
def StartResult.code : StartResult → Nat
  | .accepted => 0
  | .busy => 1

/-- The registers the host can read between operations (R30). `rxBuf` is `rx_buf[0..rx_len)`, a byte without
a specified value as `none`; `payload` is the same bytes while they are a delivered payload. -/
structure HostView where
  decState : DecState
  rxLen : Byte
  rxBuf : List (Option Byte)
  payload : Option (List Byte)
  txPhase : TxPhase
  retxCount : Nat
  tick : Nat
deriving DecidableEq, Repr

/-- Byte `i` of `rx_buf` as the host reads it: no value if no step has written it since RESET (R5, R15,
R181). -/
def hostByte (s : State) (i : Nat) : Option Byte :=
  if i < s.rxWritten then s.rxBuf.read i else Memory.unlisted

/-- What the host reads (R30), in every `dec_state`. DESIGN CHOICE (log entry 12): R30's list, which has no
condition, is the register `rxBuf`, and R181's exposure after an `Ok` is `payload`, shown from an `Ok` to the
next accepted STX or RESET (R15, R186). -/
def hostView (s : State) : HostView where
  decState := s.decState
  rxLen := s.rxLen
  rxBuf := (List.range s.rxLen.toNat).map (hostByte s)
  payload := if s.delivered then s.rxBuf.slice s.rxLen.toNat else none
  txPhase := s.txPhase
  retxCount := s.retxCount
  tick := s.tick

/-- `ch_len` on a port (R27). -/
def chLen (s : State) : Nat :=
  if chValid s then 1 else 0

/-- The decoder row that a state selects for a byte (R72). -/
def selectedDecRow (s : State) (b : Byte) : Instr :=
  decRow s.decState s.rxChk b

/-- The transmitter row that a state selects (R72). -/
def selectedTxRow (s : State) : Instr :=
  txRow s.txPhase s.ackReceived (ackDue s)

end Sys2Proof.Machine
end

