-- ==== Sys2Proof/Machine/Codec.lean ====
section
/-! DEFINITION. The two pure host operations, CHECKSUM and ENCODE_FRAME (40_checksum_encoder.md): they
read and write no register. -/

namespace Sys2Proof.Machine

/-- CHECKSUM (R80). -/
def execChecksum (bytes : List Byte) (s : State) : Outcome State :=
  report .checksum (.next (s, Sys2Proof.checksum bytes))

/-- ENCODE_FRAME (R83). -/
def execEncodeFrame (p : Payload) (s : State) : Outcome State :=
  report .frame (.next (s, frameBytes p))

end Sys2Proof.Machine
end

