-- ==== Sys2Proof/Machine/Decoder.lean ====
section
/-! DEFINITION. The frame decoder (41_decoder.md): its transitions, `decode_step`, and the meanings of
the DEC rows and of DECODE_STEP. -/

namespace Sys2Proof.Machine

/-! ## The transitions -/

/-- Transition 1: STX opens a frame (R91), and ends the time of a delivered payload (R186; log entry
12). -/
def decOpen (s : State) : State × DecResult :=
  ({ s with rxLen := 0#8, rxChk := 0#8, rxCount := 0#8, decState := .awaitLength, delivered := false }, .inProgress)

/-- Transition 2: any other byte is discarded (R92, Resync R162). -/
def decSkip (s : State) : State × DecResult :=
  (s, .inProgress)

/-- Transition 3: the length byte; a zero length skips the payload (R93). -/
def decLength (b : Byte) (s : State) : State × DecResult :=
  ({ s with rxLen := b, decState := if b = 0#8 then .awaitChecksum else .awaitPayload }, .inProgress)

/-- Transition 4: a payload byte, whatever its value; the test is on the count on entry (R94, C12;
`rxWritten` is log entry 12's). -/
def decStore (b : Byte) (s : State) : Outcome (State × DecResult) :=
  andThen (bufWrite s.rxBuf s.rxCount b) fun buf =>
    .next ({ s with
        rxBuf := buf
        rxChk := s.rxChk ^^^ b
        decState := if s.rxCount.toNat + 1 = s.rxLen.toNat then .awaitChecksum else .awaitPayload
        rxCount := s.rxCount + 1#8
        rxWritten := max s.rxWritten (s.rxCount.toNat + 1) }, .inProgress)

/-- Transition 5: the checksum matches (R95). -/
def decChecked (s : State) : State × DecResult :=
  ({ s with decState := .awaitEnd }, .inProgress)

/-- Transition 7: ETX delivers the payload in place (R97, decision D15; the mark is log entry 12's). -/
def decDeliver (s : State) : Outcome (State × DecResult) :=
  andThen (bufPayload s.rxBuf s.rxLen) fun bs =>
    .next ({ s with decState := .awaitStart, delivered := true }, .ok bs s.rxLen)

/-- `decode_step(byte)`: exactly one transition, by `dec_state` and then the byte (R90, R72).
Transitions 6 and 8 are the decoder's two errors (R96, R98, R163, R164). -/
def decodeByte (b : Byte) (s : State) : Outcome (State × DecResult) :=
  match s.decState with
  | .awaitStart => if b = Config.stx then .next (decOpen s) else .next (decSkip s)
  | .awaitLength => .next (decLength b s)
  | .awaitPayload => decStore b s
  | .awaitChecksum =>
    if b = s.rxChk then .next (decChecked s) else .next (raiseError .checksumMismatch s)
  | .awaitEnd =>
    if b = Config.etx then decDeliver s else .next (raiseError .framingError s)

/-- Bytes to the decoder one at a time, in order, with the result of each (R85, R46). -/
def decodeBytes (bytes : List Byte) (s : State) : Outcome (State × List DecResult) :=
  match bytes with
  | [] => .next (s, [])
  | b :: rest =>
    andThen (decodeByte b s) fun (s1, r) =>
      andThen (decodeBytes rest s1) fun (s2, rs) => .next (s2, r :: rs)

/-! ## Meanings -/

/-- DECODE_STEP: `decode_step` on the block's own decoder registers; no channel, no ACK, no tick
(R100, decision D20). -/
def execDecodeStep (b : Byte) (s : State) : Outcome State :=
  report .decoder (decodeByte b s)

/-- DEC.START.STX (R91). -/
def execDecStartStx (s : State) : Outcome State :=
  whenSelected (s.decState == .awaitStart) (report .decoder (.next (decOpen s)))

/-- DEC.START.SKIP (R92). -/
def execDecStartSkip (b : Byte) (s : State) : Outcome State :=
  whenSelected (s.decState == .awaitStart && b != Config.stx) (report .decoder (.next (decSkip s)))

/-- DEC.LEN.ZERO (R93). -/
def execDecLenZero (s : State) : Outcome State :=
  whenSelected (s.decState == .awaitLength) (report .decoder (.next (decLength 0#8 s)))

/-- DEC.LEN.NONZERO (R93). -/
def execDecLenNonzero (b : Byte) (s : State) : Outcome State :=
  whenSelected (s.decState == .awaitLength && b != 0#8) (report .decoder (.next (decLength b s)))

/-- DEC.PAYLOAD (R94). -/
def execDecPayload (b : Byte) (s : State) : Outcome State :=
  whenSelected (s.decState == .awaitPayload) (report .decoder (decStore b s))

/-- DEC.CHK.MATCH (R95). -/
def execDecChkMatch (b : Byte) (s : State) : Outcome State :=
  whenSelected (s.decState == .awaitChecksum && b == s.rxChk) (report .decoder (.next (decChecked s)))

/-- DEC.CHK.MISMATCH (R96, R163). -/
def execDecChkMismatch (b : Byte) (s : State) : Outcome State :=
  whenSelected (s.decState == .awaitChecksum && b != s.rxChk)
    (report .decoder (.next (raiseError .checksumMismatch s)))

/-- DEC.END.ETX (R97). -/
def execDecEndEtx (s : State) : Outcome State :=
  whenSelected (s.decState == .awaitEnd) (report .decoder (decDeliver s))

/-- DEC.END.BAD (R98, R164). -/
def execDecEndBad (b : Byte) (s : State) : Outcome State :=
  whenSelected (s.decState == .awaitEnd && b != Config.etx)
    (report .decoder (.next (raiseError .framingError s)))

end Sys2Proof.Machine
end

