-- ==== Sys2Proof/Machine/Transmitter.lean ====
section
/-! DEFINITION. The transmitter (42_transmitter.md): START_SEND, the transmitter step, and the meanings
of the TX rows. -/

namespace Sys2Proof.Machine

/-! ## START_SEND -/

/-- START_SEND accepted: load the session, emit nothing (R110, decisions D8, D10). -/
def startAccepted (p : Payload) (s : State) : State × StartResult :=
  ({ s with
      txBuf := s.txBuf.load 0 p.bytes
      txLen := payloadLen p
      txChk := Sys2Proof.checksum p.bytes
      retxCount := 0
      ackReceived := false
      txPhase := .sendStart }, .accepted)

/-- START_SEND refused during a session: nothing is written (R111). -/
def startBusy (s : State) : State × StartResult :=
  (s, .busy)

/-- START_SEND as the host issues it: accepted in `Idle`, `Busy` otherwise (R70, R110, R111). -/
def startSend (p : Payload) (s : State) : State × StartResult :=
  if sessionIdle s then startAccepted p s else startBusy s

/-! ## The phases -/

/-- Phase `Idle`: nothing is written, nothing is emitted (R121). -/
def txStepIdle (s : State) : State × TxResult :=
  (s, .idle)

/-- Phase `SendStart` (R113). -/
def txStepStart (s : State) : State × TxResult :=
  (chWrite Config.stx { s with txPhase := .sendLength }, .pending)

/-- Phase `SendLength`: an empty payload has no `SendPayload` step (R114, decision D28). -/
def txStepLength (s : State) : State × TxResult :=
  if s.txLen = 0#8 then (chWrite s.txLen { s with txPhase := .sendChecksum }, .pending)
  else (chWrite s.txLen { s with txIdx := 0#8, txPhase := .sendPayload }, .pending)

/-- Phase `SendPayload`: the test is on the index on entry (R115, C12). -/
def txStepPayload (s : State) : Outcome (State × TxResult) :=
  andThen (bufRead s.txBuf s.txIdx) fun b =>
    .next (chWrite b { s with
        txPhase := if s.txIdx.toNat + 1 = s.txLen.toNat then .sendChecksum else .sendPayload
        txIdx := s.txIdx + 1#8 }, .pending)

/-- Phase `SendChecksum`: the stored checksum, not a new one (R116, R20). -/
def txStepChecksum (s : State) : State × TxResult :=
  (chWrite s.txChk { s with txPhase := .sendEnd }, .pending)

/-- Phase `SendEnd`: the deadline is recorded in the step that emits ETX (R117, decision D11). -/
def txStepEnd (s : State) : State × TxResult :=
  (chWrite Config.etx { s with deadline := s.tick + s.timeout, txPhase := .awaitAck }, .pending)

/-- Phase `AwaitAck`, the acknowledgment seen (R118). -/
def txStepAcked (s : State) : State × TxResult :=
  ({ s with ackReceived := false, txPhase := .idle }, .sent)

/-- Phase `AwaitAck`, still waiting (R120). -/
def txStepWait (s : State) : State × TxResult :=
  (s, .pending)

/-- `transmitter_step()`: by `tx_phase`, and in `AwaitAck` the acknowledgment before the deadline
(R112, R168, decision D12). The timeout is the shared recovery of R119. -/
def transmitterStep (s : State) : Outcome (State × TxResult) :=
  match s.txPhase with
  | .idle => .next (txStepIdle s)
  | .sendStart => .next (txStepStart s)
  | .sendLength => .next (txStepLength s)
  | .sendPayload => txStepPayload s
  | .sendChecksum => .next (txStepChecksum s)
  | .sendEnd => .next (txStepEnd s)
  | .awaitAck =>
    if s.ackReceived then .next (txStepAcked s)
    else if ackDue s then .next (takeAckTimeout s)
    else .next (txStepWait s)

/-! ## Meanings -/

/-- START_SEND (R110, and R111 during a session). -/
def execStartSend (p : Payload) (s : State) : Outcome State :=
  report .start (.next (startSend p s))

/-- START_SEND.BUSY, the row of the same operation for `tx_phase != Idle` (R111). -/
def execStartSendBusy (_ : Payload) (s : State) : Outcome State :=
  whenSelected (!sessionIdle s) (report .start (.next (startBusy s)))

/-- TX.IDLE (R121). -/
def execTxIdle (s : State) : Outcome State :=
  whenSelected (s.txPhase == .idle) (report .transmitter (.next (txStepIdle s)))

/-- TX.SENDSTART (R113). -/
def execTxSendStart (s : State) : Outcome State :=
  whenSelected (s.txPhase == .sendStart) (report .transmitter (.next (txStepStart s)))

/-- TX.SENDLENGTH (R114). -/
def execTxSendLength (s : State) : Outcome State :=
  whenSelected (s.txPhase == .sendLength) (report .transmitter (.next (txStepLength s)))

/-- TX.SENDPAYLOAD (R115). -/
def execTxSendPayload (s : State) : Outcome State :=
  whenSelected (s.txPhase == .sendPayload) (report .transmitter (txStepPayload s))

/-- TX.SENDCHECKSUM (R116). -/
def execTxSendChecksum (s : State) : Outcome State :=
  whenSelected (s.txPhase == .sendChecksum) (report .transmitter (.next (txStepChecksum s)))

/-- TX.SENDEND (R117). -/
def execTxSendEnd (s : State) : Outcome State :=
  whenSelected (s.txPhase == .sendEnd) (report .transmitter (.next (txStepEnd s)))

/-- TX.AWAITACK.ACK (R118). -/
def execTxAwaitAckAck (s : State) : Outcome State :=
  whenSelected (s.txPhase == .awaitAck && s.ackReceived) (report .transmitter (.next (txStepAcked s)))

/-- TX.AWAITACK.TIMEOUT (R119, R165). -/
def execTxAwaitAckTimeout (s : State) : Outcome State :=
  whenSelected (s.txPhase == .awaitAck && !s.ackReceived && ackDue s)
    (report .transmitter (.next (takeAckTimeout s)))

/-- TX.AWAITACK.WAIT (R120). -/
def execTxAwaitAckWait (s : State) : Outcome State :=
  whenSelected (s.txPhase == .awaitAck && !s.ackReceived && !ackDue s)
    (report .transmitter (.next (txStepWait s)))

end Sys2Proof.Machine
end

