-- ==== Sys2Proof/Machine/Receiver.lean ====
section
/-! DEFINITION. The receiver step (43_receiver.md): it moves a byte from the channel into the decoder
and writes the acknowledgment. Its value is the receiver's result and the wire `ack_out` (R29). -/

namespace Sys2Proof.Machine

/-- The acknowledgment write: `ChWrite(0x06)`, `ack_out <- 1` (R131). -/
def ackWrite (s : State) : State × Bool :=
  (chWrite Config.ack s, true)

/-- After the decoder: on `Ok` the acknowledgment goes out in the same step, otherwise nothing
(R130, R131, R54(a)). -/
def afterDecode (s : State) (r : DecResult) : State × RxResult × Bool :=
  match r with
  | .ok bs n =>
    let (s1, ackOut) := ackWrite s
    (s1, .decoded (.ok bs n), ackOut)
  | .inProgress => (s, .decoded .inProgress, false)
  | .error c => (s, .decoded (.error c), false)

/-- `receiver_step()` (R130). -/
def receiverStep (s : State) : Outcome (State × RxResult × Bool) :=
  match chRead s with
  | none => .next (s, .noByte, false)
  | some (b, s1) => andThen (decodeByte b s1) fun (s2, r) => .next (afterDecode s2 r)

/-- The receiver not stepped: no read, no decode, no acknowledgment (R132). -/
def receiverSkipped (s : State) : State × RxResult × Bool :=
  (s, .notStepped, false)

/-- Part (3) of a tick (R140). -/
def receiverPart (rxEn : Bool) (s : State) : Outcome (State × RxResult × Bool) :=
  if rxEn then receiverStep s else .next (receiverSkipped s)

/-- The receiver's two values as one result. -/
def receiverResult (v : RxResult × Bool) : OpResult :=
  .receiver v.1 v.2

/-! ## Meanings -/

/-- RX.STEP, the acknowledgment write inside it included (R130). -/
def execRxStep (s : State) : Outcome State :=
  report receiverResult (receiverStep s)

/-- RX.ACKWRITE: after a decoder step that returned `Ok` (R131). -/
def execRxAckWrite (s : State) : Outcome State :=
  match s.result with
  | .decoder (.ok bs n) => report receiverResult (.next (afterDecode s (.ok bs n)))
  | _ => .refused .rowNotSelected

/-- RX.NOTSTEPPED (R132). -/
def execRxNotStepped (s : State) : Outcome State :=
  report receiverResult (.next (receiverSkipped s))

end Sys2Proof.Machine
end

