-- ==== Sys2Proof/Machine/Scheduler.lean ====
section
/-! DEFINITION. The scheduler (44_scheduler.md): the tick, the handoff, and RESET
(70_reset_and_hazards.md section 1). -/

namespace Sys2Proof.Machine

/-- The handoff's pseudocode, its test on the byte included: the ACK leaves the channel and becomes
the mark that the transmitter sees at the next tick (R143, decision D7). -/
def handoff (s : State) : State :=
  if s.channel = some Config.ack then chClear { s with ackReceived := true } else s

/-- Part (1) of a tick (R141). -/
def tickIncrement (s : State) : State :=
  { s with tick := s.tick + 1 }

/-- `TICK(rx_en)`: increment, transmitter, receiver, handoff, each complete before the next (R140). -/
def tickBody (rxEn : Bool) (s : State) : Outcome (State × TxResult × RxResult) :=
  andThen (transmitterStep (tickIncrement s)) fun (s1, tx) =>
    andThen (receiverPart rxEn s1) fun (s2, rx, ackOut) =>
      .next (if ackOut then handoff s2 else s2, tx, rx)

/-- The pair that TICK returns (R144). -/
def tickResult (v : TxResult × RxResult) : OpResult :=
  .tick v.1 v.2

/-- RESET's writes: the buffers and `TIMEOUT` are not written, and what the host has issued is not
the block's (R180, R181; log entries 2 and 5). -/
def resetState (s : State) : State :=
  { State.reset with
    rxBuf := s.rxBuf
    txBuf := s.txBuf
    timeout := s.timeout
    port := s.port }

/-! ## Meanings -/

/-- RESET: no result (R180). -/
def execReset (s : State) : Outcome State :=
  .next (resetState s)

/-- TICK (R140). -/
def execTick (rxEn : Bool) (s : State) : Outcome State :=
  report tickResult (tickBody rxEn s)

/-- SCHED.HANDOFF: in a state where the receiver reported `ack_out = 1` (R143); it returns nothing. -/
def execSchedHandoff (s : State) : Outcome State :=
  whenSelected (ackOutRaised s) (.next ((handoff s).withResult .none))

end Sys2Proof.Machine
end

