-- ==== Sys2Proof/Machine/Wire.lean ====
section
/-! DEFINITION. The wire symbols (30_encoding.md sections 1 to 3) as what their reader does with them:
STX, ETX and a frame's bytes reach the decoder, the acknowledgment reaches the handoff (R42, R65, R66;
log entry 8). -/

namespace Sys2Proof.Machine

/-- The last of the results, which a frame's last byte returns (R85). -/
def lastResult : List DecResult → DecResult
  | [] => .inProgress
  | [r] => r
  | _ :: r :: rest => lastResult (r :: rest)

/-- A whole frame to the decoder, a byte at a time, first byte first (R60, R46). -/
def wireFrame (p : Payload) (s : State) : Outcome (State × DecResult) :=
  andThen (decodeBytes (frameBytes p) s) fun (s1, rs) => .next (s1, lastResult rs)

/-- STX on the wire: a frame's start in `AwaitStart`, an ordinary value elsewhere (R66). -/
def execStx (s : State) : Outcome State :=
  report .decoder (decodeByte Config.stx s)

/-- ETX on the wire: a frame's end in `AwaitEnd`, an ordinary value elsewhere (R66). -/
def execEtx (s : State) : Outcome State :=
  report .decoder (decodeByte Config.etx s)

/-- The acknowledgment unit: written alone by the receiver and taken by the handoff of the same tick,
with no step between (R65, R54, R143). -/
def execAck (s : State) : Outcome State :=
  .next ((handoff (ackWrite s).1).withResult .none)

/-- A frame on the wire (R60). -/
def execFrame (p : Payload) (s : State) : Outcome State :=
  report .decoder (wireFrame p s)

end Sys2Proof.Machine
end

