-- ==== Sys2Proof/Machine/Dispatch.lean ====
section
/-! DEFINITION. The dispatch: one arm per row of the opcode table, one meaning per arm. -/

namespace Sys2Proof.Machine

def exec (i : Instr) (s : State) : Host.Outcome State Fault Refusal :=
  match i with
  | .reset => Sys2Proof.Machine.execReset s
  | .startSend payload => Sys2Proof.Machine.execStartSend payload s
  | .startSendBusy payload => Sys2Proof.Machine.execStartSendBusy payload s
  | .tick rxEn => Sys2Proof.Machine.execTick rxEn s
  | .decodeStep byte => Sys2Proof.Machine.execDecodeStep byte s
  | .checksum bytes => Sys2Proof.Machine.execChecksum bytes s
  | .encodeFrame payload => Sys2Proof.Machine.execEncodeFrame payload s
  | .stx => Sys2Proof.Machine.execStx s
  | .etx => Sys2Proof.Machine.execEtx s
  | .ack => Sys2Proof.Machine.execAck s
  | .frame payload => Sys2Proof.Machine.execFrame payload s
  | .decStartStx => Sys2Proof.Machine.execDecStartStx s
  | .decStartSkip byte => Sys2Proof.Machine.execDecStartSkip byte s
  | .decLenZero => Sys2Proof.Machine.execDecLenZero s
  | .decLenNonzero byte => Sys2Proof.Machine.execDecLenNonzero byte s
  | .decPayload byte => Sys2Proof.Machine.execDecPayload byte s
  | .decChkMatch byte => Sys2Proof.Machine.execDecChkMatch byte s
  | .decChkMismatch byte => Sys2Proof.Machine.execDecChkMismatch byte s
  | .decEndEtx => Sys2Proof.Machine.execDecEndEtx s
  | .decEndBad byte => Sys2Proof.Machine.execDecEndBad byte s
  | .txIdle => Sys2Proof.Machine.execTxIdle s
  | .txSendStart => Sys2Proof.Machine.execTxSendStart s
  | .txSendLength => Sys2Proof.Machine.execTxSendLength s
  | .txSendPayload => Sys2Proof.Machine.execTxSendPayload s
  | .txSendChecksum => Sys2Proof.Machine.execTxSendChecksum s
  | .txSendEnd => Sys2Proof.Machine.execTxSendEnd s
  | .txAwaitAckAck => Sys2Proof.Machine.execTxAwaitAckAck s
  | .txAwaitAckTimeout => Sys2Proof.Machine.execTxAwaitAckTimeout s
  | .txAwaitAckWait => Sys2Proof.Machine.execTxAwaitAckWait s
  | .rxStep => Sys2Proof.Machine.execRxStep s
  | .rxAckWrite => Sys2Proof.Machine.execRxAckWrite s
  | .rxNotStepped => Sys2Proof.Machine.execRxNotStepped s
  | .schedHandoff => Sys2Proof.Machine.execSchedHandoff s

end Sys2Proof.Machine
end

