-- ==== Sys2Proof/Machine/Step.lean ====
section
/-! DEFINITION. One step of the machine: the next host operation, whole (R4, R70). -/

namespace Sys2Proof.Machine

/-- Take one operation off the host port and execute it. With nothing issued the block does nothing:
only an operation changes it (R4, R6). Bytes that are no operation are refused (R70, U4). -/
def step (s : State) : Host.Outcome State Fault Refusal :=
  match s.port with
  | [] => .next s
  | b :: bs =>
    match decodeIn (hostSpace s) (b :: bs) with
    | .ok (i, rest) => exec i { s with port := rest }
    | .error e => .refused (.notAHostOperation e)

/-- `s` with exactly the operation of a table word on the host port (log entry 4). -/
def State.withFetchWord (s : State) (nbits w : Nat) : State :=
  let bytes := tableWordBytes nbits w
  match decodeIn (hostSpace s) bytes with
  | .ok (_, rest) => { s with port := bytes.take (bytes.length - rest.length) }
  | .error _ => { s with port := bytes }

end Sys2Proof.Machine
end

