-- ==== Sys2Proof/Safety.lean ====
section
/-! DEFINITION. What claims call a good state: the invariants of 10_state.md (R16, R24) as predicates a
kernel can evaluate, the buffers' canonical form, and states that differ only in bytes without a
specified value. -/

namespace Sys2Proof.Machine

/-- Decoder invariants R16(a) to (e). In the model clause (d) and the equality of (b) also hold in
`AwaitStart`, so that a delivered payload can be read there until the next STX (R12, R186; log entry 11).
The last parts are about the model's own marks: a delivered payload is held in `AwaitStart` only (R97,
R186), and the bytes written since RESET are the first ones, the current frame's among them (R15; log entry
12). -/
abbrev DecoderInv (s : State) : Prop :=
  s.rxCount.toNat ≤ s.rxLen.toNat ∧
  (s.decState = .awaitLength → s.rxLen = 0#8 ∧ s.rxCount = 0#8 ∧ s.rxChk = 0#8) ∧
  (s.decState = .awaitPayload → s.rxCount.toNat < s.rxLen.toNat) ∧
  (s.decState = .awaitChecksum ∨ s.decState = .awaitEnd ∨ s.decState = .awaitStart →
    s.rxCount = s.rxLen) ∧
  (s.rxBuf.slice s.rxCount.toNat).map checksum = some s.rxChk ∧
  (s.delivered = true → s.decState = .awaitStart) ∧
  s.rxCount.toNat ≤ s.rxWritten ∧ s.rxWritten ≤ Config.bufCap ∧ (s.rxBuf.slice s.rxWritten).isSome = true

/-- The ticks an attempt has used at least when a phase is entered (R24(d): an attempt emits at least
four bytes, one a tick). -/
def attemptTicks : TxPhase → Nat
  | .idle => 0
  | .sendStart => 0
  | .sendLength => 1
  | .sendPayload => 2
  | .sendChecksum => 2
  | .sendEnd => 3
  | .awaitAck => 4

/-- Transmitter invariants R24(a) to (d). In (c) the tick of the most recent ETX is
`deadline - TIMEOUT`; (d) is the fourth part without `attemptTicks` (log entry 11). -/
abbrev TransmitterInv (s : State) : Prop :=
  (s.txPhase = .sendPayload → s.txIdx.toNat < s.txLen.toNat) ∧
  (s.txBuf.slice s.txLen.toNat).map checksum = some s.txChk ∧
  (s.txPhase = .awaitAck → s.timeout ≤ s.deadline ∧ s.deadline ≤ s.tick + s.timeout) ∧
  4 * s.retxCount + attemptTicks s.txPhase ≤ s.tick

/-- Both buffers are in canonical form. -/
abbrev BuffersWf (s : State) : Prop :=
  s.rxBuf.wf = true ∧ s.txBuf.wf = true

/-- The invariant that every step keeps. -/
abbrev BlockInv (s : State) : Prop :=
  DecoderInv s ∧ TransmitterInv s ∧ BuffersWf s

/-- Two states that differ at most in buffer bytes without a specified value: those at or above
`rx_count` of `rx_buf` and at or above `tx_len` of `tx_buf` (R15, R21, U1). -/
def SameSpecified (s t : State) : Prop :=
  t = { s with rxBuf := t.rxBuf, txBuf := t.txBuf } ∧
  t.rxBuf.slice s.rxCount.toNat = s.rxBuf.slice s.rxCount.toNat ∧
  t.txBuf.slice s.txLen.toNat = s.txBuf.slice s.txLen.toNat

/-- No host operation but RESET takes a session to `Idle` whose acknowledgment has not been seen
(R111, R180). -/
def OnlyResetEndsASession : Prop :=
  ∀ i s t, i.inSpace (hostSpace s) = true → s.txPhase ≠ .idle → s.ackReceived = false →
    exec i s = .next t → t.txPhase = .idle → i = .reset

/-- `n` TICKs one after the other, each with the same `rx_en`. -/
def runTicks (rxEn : Bool) : Nat → State → Outcome State
  | 0, s => .next s
  | n + 1, s => andThen (runTicks rxEn n s) (exec (.tick rxEn))

/-- DECODE_STEP on each byte in order. -/
def runDecodeSteps : List Byte → State → Outcome State
  | [], s => .next s
  | b :: rest, s => andThen (exec (.decodeStep b) s) (runDecodeSteps rest)

/-- The retransmission period with no acknowledgment, for a payload of `n` bytes (R124). -/
def retxPeriod (n timeout : Nat) : Nat :=
  n + 3 + max 1 timeout

end Sys2Proof.Machine
end

