-- ==== Sys2Proof/Certificates/Slice0/Obligations.lean ====
section
/-! DEFINITION. The statements for the provers, by file of spec/. A record equality
`exec i s = .next { s with … }` states at once that the row completes, what it writes and its frame:
every register, every buffer byte and the channel that the record does not name is unchanged. -/

open Sys2Proof Sys2Proof.Machine

/-! ## State, parameter, reset (00_scope.md, 10_state.md, 70_reset_and_hazards.md) -/

/-- R33: the registers after RESET. The rows that R33 calls unspecified or meaningless (`rx_buf`,
`tx_buf`, `ch_data`) make no claim; an empty channel is `none` (R27). -/
def Obligations.ResetRegisterValues : Prop :=
  State.reset.decState = .awaitStart ∧ State.reset.rxLen = 0#8 ∧ State.reset.rxCount = 0#8 ∧
  State.reset.rxChk = 0#8 ∧ State.reset.txPhase = .idle ∧ State.reset.txIdx = 0#8 ∧
  State.reset.txLen = 0#8 ∧ State.reset.txChk = 0#8 ∧ State.reset.retxCount = 0 ∧
  State.reset.deadline = 0 ∧ State.reset.tick = 0 ∧ State.reset.ackReceived = false ∧
  State.reset.channel = none

/-- R180: RESET from any state gives the reset state, buffers and `TIMEOUT` not written; and no other
host operation ends a session whose acknowledgment has not been seen. -/
def Obligations.ResetOperation : Prop :=
  (∀ s, exec .reset s = .next { State.reset with
      rxBuf := s.rxBuf, txBuf := s.txBuf, timeout := s.timeout, port := s.port }) ∧
  OnlyResetEndsASession

/-- R1: the default of `TIMEOUT` is 100, every natural number including 0 is accepted (the field's
type), and no row writes it. -/
def Obligations.TimeoutIsFixed : Prop :=
  State.reset.timeout = 100 ∧
  (∀ i s t, exec i s = .next t → t.timeout = s.timeout)

/-- R25 and R141: TICK adds 1 to `tick`, whatever the machines and `rx_en` are; RESET sets it to 0;
nothing else writes it; and only differences of tick values matter: a TICK with `tick` and `deadline`
moved by the same amount does the same. The increment comes first: the transmitter row is the one that the
incremented state selects and it runs on that state, the receiver row runs on what it leaves, and neither
changes `tick`. -/
def Obligations.TickCounterWriters : Prop :=
  (∀ i s t, exec i s = .next t →
    t.tick = (match i with
      | .tick _ => s.tick + 1
      | .reset => 0
      | _ => s.tick)) ∧
  (∀ rxEn s t k, exec (.tick rxEn) s = .next t →
    exec (.tick rxEn) { s with tick := s.tick + k, deadline := s.deadline + k } =
      .next { t with tick := t.tick + k, deadline := t.deadline + k }) ∧
  (∀ rxEn s t s1, s1 = { s with tick := s.tick + 1 } → exec (.tick rxEn) s = .next t →
    ∃ u v, exec (selectedTxRow s1) s1 = .next u ∧ exec (rxRow rxEn) u = .next v ∧
      u.tick = s.tick + 1 ∧ v.tick = s.tick + 1 ∧
      t.txPhase = u.txPhase ∧ t.txIdx = u.txIdx ∧ t.retxCount = u.retxCount ∧ t.deadline = u.deadline ∧
      t.decState = v.decState ∧ t.rxLen = v.rxLen ∧ t.rxCount = v.rxCount ∧ t.rxChk = v.rxChk ∧
      t.rxBuf = v.rxBuf)

/-- R22: `retx_count` is set to 0 by an accepted START_SEND and by RESET, incremented by each
acknowledgment timeout, and changed by nothing else; a completed session leaves it. -/
def Obligations.RetxCounterWriters : Prop :=
  ∀ i s t, exec i s = .next t →
    t.retxCount = (match i with
      | .reset => 0
      | .startSend _ => if s.txPhase = .idle then 0 else s.retxCount
      | .tick _ =>
        if s.txPhase = .awaitAck ∧ s.ackReceived = false ∧ s.deadline ≤ s.tick + 1 then s.retxCount + 1
        else s.retxCount
      | .txAwaitAckTimeout => s.retxCount + 1
      | _ => s.retxCount)

/-- R23: `deadline` is written by the `SendEnd` step alone, as `tick + TIMEOUT` with the tick's increment
done, and by RESET; in every phase but `AwaitAck` its value does not matter: the same transmitter row is
selected and does the same, `deadline` itself left as it was or, in `SendEnd`, written with the same
value. -/
def Obligations.DeadlineWriters : Prop :=
  (∀ i s t, exec i s = .next t →
    t.deadline = (match i with
      | .reset => 0
      | .tick _ => if s.txPhase = .sendEnd then s.tick + 1 + s.timeout else s.deadline
      | .txSendEnd => s.tick + s.timeout
      | _ => s.deadline)) ∧
  (∀ s d, s.txPhase ≠ .awaitAck →
    selectedTxRow { s with deadline := d } = selectedTxRow s ∧
    (∀ t, exec (selectedTxRow s) s = .next t →
      exec (selectedTxRow s) { s with deadline := d } =
        .next { t with deadline := if s.txPhase = .sendEnd then t.deadline else d }))

/-- R26: `ack_received` is set by the handoff of a tick in which the receiver wrote an ACK (its `Ok`),
cleared by the transmitter step that consumes it, by an accepted START_SEND and by RESET, and changed
by nothing else. That the rows SCHED.HANDOFF and ACK set it outside a tick is the model's choice (log
entries 7 and 8). -/
def Obligations.AckMarkWriters : Prop :=
  ∀ i s t, exec i s = .next t →
    t.ackReceived = (match i with
      | .reset => false
      | .startSend _ => if s.txPhase = .idle then false else s.ackReceived
      | .tick _ =>
        (match t.result with
          | .tick _ (.decoded (.ok _ _)) => true
          | _ => s.ackReceived && s.txPhase != .awaitAck)
      | .txAwaitAckAck => false
      | .schedHandoff => s.ackReceived || s.channel == some 0x06#8
      | .ack => true
      | _ => s.ackReceived)

/-- R19 and R20: `tx_len` and `tx_chk` are written by an accepted START_SEND, with the payload's length
and checksum, and by RESET, and by nothing else; `tx_buf` by an accepted START_SEND alone. -/
def Obligations.SessionDataIsStable : Prop :=
  ∀ i s t, exec i s = .next t →
    (t.txLen = (match i with
      | .reset => 0#8
      | .startSend p => if s.txPhase = .idle then payloadLen p else s.txLen
      | _ => s.txLen)) ∧
    (t.txChk = (match i with
      | .reset => 0#8
      | .startSend p => if s.txPhase = .idle then checksum p.bytes else s.txChk
      | _ => s.txChk)) ∧
    ((∀ p, i ≠ .startSend p) ∨ s.txPhase ≠ .idle → t.txBuf = s.txBuf) ∧
    (∀ p, i = .startSend p → s.txPhase = .idle → t.txBuf.slice t.txLen.toNat = some p.bytes)

/-- 20_memory.md section 3 and 10_state.md section 5: what changes `rx_buf`, and what the host reads of it.
No row but FRAME changes a byte other than the one at `rx_count`, and that one only in `AwaitPayload`. The
host reads `rx_buf[0..rx_len)` in every decoder state, the current frame's bytes with their values and a byte
not written since RESET with none. That such a byte shows as no value, and the two marks that say which
bytes are written and which are a delivered payload, are the model's choice (log entries 5 and 12): a payload
byte extends the first mark and RESET clears it; a host operation that returns `Ok` sets the second, and an
accepted STX and RESET clear it. States that differ only in bytes without a specified value look the same to
the host, and a step keeps them so. -/
def Obligations.RxBufferAccess : Prop :=
  (∀ i s t, exec i s = .next t → (∀ p, i ≠ .frame p) →
    (∀ a, a ≠ s.rxCount.toNat ∨ s.decState ≠ .awaitPayload → t.rxBuf.read a = s.rxBuf.read a) ∧
    t.rxWritten = (if i = .reset then 0
      else if s.decState = .awaitPayload ∧ t.rxCount ≠ s.rxCount then max s.rxWritten (s.rxCount.toNat + 1)
      else s.rxWritten)) ∧
  (∀ i s t, i.inSpace (hostSpace s) = true → exec i s = .next t →
    (t.delivered = true ↔
      (∃ bs n, t.result = .decoder (.ok bs n)) ∨ (∃ tx bs n, t.result = .tick tx (.decoded (.ok bs n))) ∨
      (s.delivered = true ∧ i ≠ .reset ∧ ¬(s.decState = .awaitStart ∧ t.decState = .awaitLength)))) ∧
  (∀ s, DecoderInv s →
    (hostView s).rxBuf.length = s.rxLen.toNat ∧
    (∀ i, i < s.rxLen.toNat → i < s.rxWritten →
      ∃ b, (hostView s).rxBuf[i]? = some (some b) ∧ s.rxBuf.read i = some b) ∧
    (∀ i, i < s.rxLen.toNat → s.rxWritten ≤ i → (hostView s).rxBuf[i]? = some none) ∧
    (∃ bs, s.rxBuf.slice s.rxCount.toNat = some bs ∧ (hostView s).rxBuf.take s.rxCount.toNat = bs.map some) ∧
    (s.delivered = true → ∃ bs, (hostView s).payload = some bs ∧ s.rxBuf.slice s.rxLen.toNat = some bs) ∧
    (s.delivered = false → (hostView s).payload = none) ∧
    (∀ t, SameSpecified s t → t.rxBuf.slice s.rxWritten = s.rxBuf.slice s.rxWritten → hostView t = hostView s)) ∧
  (∀ s t s', BlockInv s → SameSpecified s t → t.rxBuf.slice s.rxWritten = s.rxBuf.slice s.rxWritten →
    step s = .next s' → ∃ t', step t = .next t' ∧ SameSpecified s' t' ∧
      t'.rxBuf.slice s'.rxWritten = s'.rxBuf.slice s'.rxWritten)

/-! ## Encodings (30_encoding.md) -/

/-- R68, R69 and R71: the port values of `dec_state` (5 to 7 never occur), of `tx_phase` (7 never
occurs) and of the results. -/
def Obligations.PortCodes : Prop :=
  ([DecState.awaitStart, .awaitLength, .awaitPayload, .awaitChecksum, .awaitEnd].map
      (fun d => d.ordinal.toNat) = [0, 1, 2, 3, 4]) ∧
  ([TxPhase.idle, .sendStart, .sendLength, .sendPayload, .sendChecksum, .sendEnd, .awaitAck].map
      (fun p => p.ordinal.toNat) = [0, 1, 2, 3, 4, 5, 6]) ∧
  (∀ d : DecState, d.ordinal.toNat ≤ 4) ∧ (∀ p : TxPhase, p.ordinal.toNat ≤ 6) ∧
  DecResult.inProgress.code = 0 ∧ (∀ bs n, (DecResult.ok bs n).code = 1) ∧
  (∀ c, (DecResult.error c).code = 2) ∧
  (DecResult.error .checksumMismatch).causeCode = 1 ∧ (DecResult.error .framingError).causeCode = 2 ∧
  DecResult.inProgress.causeCode = 0 ∧ (∀ bs n, (DecResult.ok bs n).causeCode = 0) ∧
  (∀ r, (RxResult.decoded r).code = r.code) ∧ RxResult.noByte.code = 3 ∧ RxResult.notStepped.code = 4 ∧
  TxResult.idle.code = 0 ∧ TxResult.pending.code = 1 ∧ TxResult.sent.code = 2 ∧
  StartResult.accepted.code = 0 ∧ StartResult.busy.code = 1 ∧
  (∀ s b t bs n, exec (.decodeStep b) s = .next t → t.result = .decoder (.ok bs n) →
    t.rxBuf.slice t.rxLen.toNat = some bs ∧ n = t.rxLen)

/-- Words written out from 30_encoding.md: a row of each encoding space from its bits. The carriage of
operands on the host port is the model's (log entry 3). -/
def Obligations.SampleWordsDecode : Prop :=
  decodeIn (.hostOp true) [0b00000000#8] = .ok (.reset, []) ∧
  decodeIn (.hostOp true) [0b00000010#8, 0b00000001#8] = .ok (.tick true, []) ∧
  decodeIn (.hostOp true) [0b00000011#8, 0x54#8] = .ok (.decodeStep 0x54#8, []) ∧
  decodeIn .wireByte [0b00000110#8] = .ok (.ack, []) ∧
  decodeIn (.decByte .awaitStart 0x00#8) [0b00000010#8] = .ok (.decStartStx, []) ∧
  decodeIn (.decByte .awaitEnd 0x00#8) [0b00000011#8] = .ok (.decEndEtx, []) ∧
  decodeIn (.txStep false true) [0b00000110#8] = .ok (.txAwaitAckTimeout, []) ∧
  decodeIn .rxEnable [0b00000001#8] = .ok (.rxStep, [])

/-- Decode and encode agree: a well-formed row, in a space that its condition selects it in, is read
back from its bytes, whatever follows them. -/
def Obligations.DecodeOfEncode : Prop :=
  ∀ sp i rest, i.wf = true → i.inSpace sp = true → decodeIn sp (encode i ++ rest) = .ok (i, rest)

/-- Every word has one meaning: what decodes is well-formed, is selected by the space, and is the
encoding of what it decodes to. -/
def Obligations.EncodeOfDecode : Prop :=
  ∀ sp bytes i rest, decodeIn sp bytes = .ok (i, rest) →
    i.wf = true ∧ i.inSpace sp = true ∧ encode i ++ rest = bytes

/-- 30_encoding.md section 5: the host port's operations are the six of the table there (START_SEND in
its two rows), and selectors 6 and 7 are refused. -/
def Obligations.HostPortOperations : Prop :=
  (∀ idle bytes i rest, decodeIn (.hostOp idle) bytes = .ok (i, rest) →
    i = .reset ∨ (∃ p, i = .startSend p ∧ idle = true) ∨ (∃ p, i = .startSendBusy p ∧ idle = false) ∨
    (∃ rxEn, i = .tick rxEn) ∨ (∃ b, i = .decodeStep b) ∨ (∃ bs, i = .checksum bs) ∨
    (∃ p, i = .encodeFrame p)) ∧
  (∀ s rest, s.port = 6#8 :: rest → step s = .refused (.notAHostOperation (.notAnOperation 6))) ∧
  (∀ s rest, s.port = 7#8 :: rest → step s = .refused (.notAHostOperation (.notAnOperation 7)))

/-! ## The step -/

/-- A step runs the decoded operation: it takes the operation's bytes off the host port and executes
it; with nothing issued it changes nothing; bytes that are no operation are refused. The host port is
the model's (log entry 2). -/
def Obligations.StepRunsTheDecodedOperation : Prop :=
  (∀ s i rest, decodeIn (hostSpace s) s.port = .ok (i, rest) → step s = exec i { s with port := rest }) ∧
  (∀ s, s.port = [] → step s = .next s) ∧
  (∀ s e, s.port ≠ [] → decodeIn (hostSpace s) s.port = .error e → step s = .refused (.notAHostOperation e))

/-- The host's two names agree (log entry 4): where the decoder reads an operation from a table word,
a step from a state in `Idle` with that word on the port runs exactly it. -/
def Obligations.FetchWordRunsTheDecodedWord : Prop :=
  ∀ (s : State) nbits w i, s.txPhase = .idle → decodeTableWord nbits w = some i →
    step (s.withFetchWord nbits w) = exec i { s with port := [] }

/-- Host operations do not read the model's own fields: the result wires (log entry 2), and the two marks
that the host's view reads (log entry 12), on which nothing but the marks themselves depends. -/
def Obligations.HostOperationsIgnoreTheModelsFields : Prop :=
  (∀ i s r, i.inSpace (hostSpace s) = true → exec i { s with result := r } = exec i s) ∧
  (∀ i s d w t, i.inSpace (hostSpace s) = true → exec i s = .next t →
    ∃ u, exec i { s with delivered := d, rxWritten := w } = .next u ∧
      u = { t with delivered := u.delivered, rxWritten := u.rxWritten })

/-! ## Checksum and frame encoder (40_checksum_encoder.md) -/

/-- R80: CHECKSUM is the XOR fold from 0x00, it writes no register, and its corner cases. -/
def Obligations.ChecksumOperation : Prop :=
  (∀ bs s, exec (.checksum bs) s =
    .next { s with result := .checksum (bs.foldl (fun c b => c ^^^ b) 0#8) }) ∧
  checksum [] = 0#8 ∧ (∀ b, checksum [b] = b) ∧
  (∀ bs cs : List Byte, bs.Perm cs → checksum bs = checksum cs) ∧
  (∀ bs : List Byte, (∀ b, bs.count b % 2 = 0) → checksum bs = 0#8) ∧
  checksum [0xDE#8, 0xAD#8] = 0x73#8

/-- 40_checksum_encoder.md section 1: the laws of the XOR datapath. -/
def Obligations.ChecksumAlgebra : Prop :=
  (∀ bs cs, checksum (bs ++ cs) = checksum bs ^^^ checksum cs) ∧
  (∀ bs, checksum (bs ++ [checksum bs]) = 0#8)

/-- R83: ENCODE_FRAME returns STX, LEN, the payload unchanged, CHK and ETX, `n + 4` bytes, and writes no
register; a payload of more than 255 bytes cannot be written down. -/
def Obligations.EncodeFrameOperation : Prop :=
  (∀ p s, exec (.encodeFrame p) s = .next { s with
      result := .frame ([0x02#8, BitVec.ofNat 8 p.bytes.length] ++ p.bytes ++ [checksum p.bytes, 0x03#8]) }) ∧
  (∀ p, (frameBytes p).length = p.bytes.length + 4) ∧
  (∀ p : Payload, p.bytes.length ≤ 255 ∧ (payloadLen p).toNat = p.bytes.length) ∧
  (∀ p : Payload, p.bytes = [] → frameBytes p = [0x02#8, 0x00#8, 0x00#8, 0x03#8]) ∧
  (∀ p : Payload, p.bytes = [0x54#8, 0x44#8, 0x44#8] →
    frameBytes p = [0x02#8, 0x03#8, 0x54#8, 0x44#8, 0x44#8, 0x54#8, 0x03#8])

/-! ## The decoder (41_decoder.md) -/

/-- R91 and R92: STX in `AwaitStart` clears length, checksum and count and goes to `AwaitLength`
(`rx_buf` is not cleared); any other byte is discarded: `InProgress`, no register written. No claim is made
on the model's own mark of a delivered payload (log entry 12). -/
def Obligations.AwaitStartByte : Prop :=
  ∀ s, s.decState = .awaitStart →
    (∃ d, exec .decStartStx s = .next { s with
      rxLen := 0#8, rxChk := 0#8, rxCount := 0#8, decState := .awaitLength, result := .decoder .inProgress
      delivered := d }) ∧
    exec (.decodeStep 0x02#8) s = exec .decStartStx s ∧
    (∀ b, b ≠ 0x02#8 →
      exec (.decStartSkip b) s = .next { s with result := .decoder .inProgress } ∧
      exec (.decodeStep b) s = exec (.decStartSkip b) s)

/-- R93: the length byte, both rows. -/
def Obligations.LengthByte : Prop :=
  ∀ s, s.decState = .awaitLength →
    exec .decLenZero s = .next { s with
      rxLen := 0#8, decState := .awaitChecksum, result := .decoder .inProgress } ∧
    exec (.decodeStep 0x00#8) s = exec .decLenZero s ∧
    (∀ b, b ≠ 0#8 →
      exec (.decLenNonzero b) s = .next { s with
        rxLen := b, decState := .awaitPayload, result := .decoder .inProgress } ∧
      exec (.decodeStep b) s = exec (.decLenNonzero b) s)

/-- R94: a payload byte of any value is stored at `rx_count`, folded and counted; the last one goes to
`AwaitChecksum`; every other byte of the buffer reads as before. No claim on the model's own mark of the
bytes written since RESET (log entry 12). -/
def Obligations.PayloadByte : Prop :=
  ∀ s b, s.decState = .awaitPayload → s.rxCount.toNat < s.rxLen.toNat →
    (∃ buf w,
      exec (.decPayload b) s = .next { s with
        rxBuf := buf
        rxChk := s.rxChk ^^^ b
        decState := if s.rxCount.toNat + 1 = s.rxLen.toNat then .awaitChecksum else .awaitPayload
        rxCount := s.rxCount + 1#8
        result := .decoder .inProgress
        rxWritten := w } ∧
      buf.read s.rxCount.toNat = some b ∧
      (∀ a, a ≠ s.rxCount.toNat → buf.read a = s.rxBuf.read a)) ∧
    (s.rxCount + 1#8).toNat = s.rxCount.toNat + 1 ∧
    exec (.decodeStep b) s = exec (.decPayload b) s

/-- R95 and R96: the checksum byte, matching and not. -/
def Obligations.ChecksumByte : Prop :=
  ∀ s b, s.decState = .awaitChecksum →
    (b = s.rxChk →
      exec (.decChkMatch b) s = .next { s with
        decState := .awaitEnd, result := .decoder .inProgress } ∧
      exec (.decodeStep b) s = exec (.decChkMatch b) s) ∧
    (b ≠ s.rxChk →
      exec (.decChkMismatch b) s = .next { s with
        decState := .awaitStart, result := .decoder (.error .checksumMismatch) } ∧
      exec (.decodeStep b) s = exec (.decChkMismatch b) s)

/-- R97: ETX in `AwaitEnd` delivers `rx_buf[0..rx_len)` in place and writes `dec_state` only; the
payload stays readable until an STX is accepted: no row but RESET and FRAME that leaves the decoder in
`AwaitStart` changes `rx_len` or `rx_buf`. That the payload's bytes have values is the invariant of
10_state.md section 2 (see `DecoderInv`). -/
def Obligations.EtxDeliversThePayload : Prop :=
  (∀ s bs, s.decState = .awaitEnd → s.rxBuf.slice s.rxLen.toNat = some bs →
    ∃ t, exec .decEndEtx s = .next t ∧
      t = { s with decState := .awaitStart, result := .decoder (.ok bs s.rxLen), delivered := t.delivered } ∧
      (hostView t).payload = some bs ∧ bs.length = t.rxLen.toNat ∧
      exec (.decodeStep 0x03#8) s = .next t) ∧
  (∀ i s t, exec i s = .next t → i ≠ .reset → (∀ p, i ≠ .frame p) →
    s.decState = .awaitStart → t.decState = .awaitStart →
    t.rxLen = s.rxLen ∧ t.rxBuf = s.rxBuf ∧ (hostView t).payload = (hostView s).payload)

/-- R98: any other byte in `AwaitEnd` is a framing error; the payload is not delivered. -/
def Obligations.BadTerminator : Prop :=
  ∀ s b, s.decState = .awaitEnd → b ≠ 0x03#8 →
    exec (.decEndBad b) s = .next { s with
      decState := .awaitStart, result := .decoder (.error .framingError) } ∧
    exec (.decodeStep b) s = exec (.decEndBad b) s

/-- R100: DECODE_STEP is `decode_step` and nothing else: it is the one row that the state selects, it
writes decoder registers and its result only, it does not read the channel, and it completes wherever
R16 holds. -/
def Obligations.DecodeStepIsTheSelectedRow : Prop :=
  (∀ s b, exec (.decodeStep b) s = exec (selectedDecRow s b) s) ∧
  (∀ s b i, i.inSpace (decSpace s) = true → encode i = [b] → i = selectedDecRow s b) ∧
  (∀ s b t, exec (.decodeStep b) s = .next t → t = { s with
    decState := t.decState, rxLen := t.rxLen, rxCount := t.rxCount, rxChk := t.rxChk, rxBuf := t.rxBuf
    result := t.result, delivered := t.delivered, rxWritten := t.rxWritten } ∧
    (∀ ch, exec (.decodeStep b) { s with channel := ch } = .next { t with channel := ch })) ∧
  (∀ s b, DecoderInv s → ∃ t r, exec (.decodeStep b) s = .next t ∧ t.result = .decoder r)

/-- R101: which step returns which result, and that `Ok` and `Error` leave the decoder in `AwaitStart`. -/
def Obligations.DecoderResultContract : Prop :=
  ∀ s b t, exec (.decodeStep b) s = .next t →
    ∃ r, t.result = .decoder r ∧
      ((∃ bs n, r = .ok bs n) ↔ s.decState = .awaitEnd ∧ b = 0x03#8) ∧
      (r = .error .checksumMismatch ↔ s.decState = .awaitChecksum ∧ b ≠ s.rxChk) ∧
      (r = .error .framingError ↔ s.decState = .awaitEnd ∧ b ≠ 0x03#8) ∧
      (r ≠ .inProgress → t.decState = .awaitStart)

/-- 40_checksum_encoder.md section 2, the round-trip law, with FRAME as a row (log entry 8): every
payload's frame, fed to a decoder in `AwaitStart`, is `InProgress` until its last byte and then `Ok`
with the payload and its length; bytes above the payload's read as before and only decoder registers
change. -/
def Obligations.FrameRoundTrip : Prop :=
  ∀ p s, s.decState = .awaitStart →
    ∃ t, decodeBytes (frameBytes p) s =
        .next (t, List.replicate (p.bytes.length + 3) .inProgress ++ [.ok p.bytes (payloadLen p)]) ∧
      t.decState = .awaitStart ∧ (hostView t).payload = some p.bytes ∧
      (∀ a, p.bytes.length ≤ a → t.rxBuf.read a = s.rxBuf.read a) ∧
      t = { s with
        decState := t.decState, rxLen := t.rxLen, rxCount := t.rxCount, rxChk := t.rxChk
        rxBuf := t.rxBuf, delivered := t.delivered, rxWritten := t.rxWritten } ∧
      exec (.frame p) s = .next { t with result := .decoder (.ok p.bytes (payloadLen p)) }

/-- 41_decoder.md section 2, resynchronisation: bytes that are not STX, then a frame. -/
def Obligations.ResyncAfterGarbage : Prop :=
  ∀ p garbage s, s.decState = .awaitStart → Config.stx ∉ garbage →
    ∃ t, decodeBytes (garbage ++ frameBytes p) s =
        .next (t, List.replicate (garbage.length + p.bytes.length + 3) .inProgress ++
          [.ok p.bytes (payloadLen p)]) ∧
      t.decState = .awaitStart

/-- 95_test_vectors.md, scenario S2: a frame whose checksum byte alone is wrong. -/
def Obligations.CorruptedChecksumIsRejected : Prop :=
  ∀ p c s, s.decState = .awaitStart → c ≠ checksum p.bytes →
    ∃ t, decodeBytes ([Config.stx, payloadLen p] ++ p.bytes ++ [c]) s =
        .next (t, List.replicate (p.bytes.length + 2) .inProgress ++ [.error .checksumMismatch]) ∧
      t.decState = .awaitStart

/-! ## The transmitter (42_transmitter.md) -/

/-- R110: START_SEND in `Idle` loads the session and touches nothing else; the bytes of `tx_buf` at and
above the payload's length read as before. -/
def Obligations.StartSendAccepted : Prop :=
  ∀ p s, s.txPhase = .idle →
    ∃ buf,
      exec (.startSend p) s = .next { s with
        txBuf := buf
        txLen := BitVec.ofNat 8 p.bytes.length
        txChk := checksum p.bytes
        retxCount := 0
        ackReceived := false
        txPhase := .sendStart
        result := .start .accepted } ∧
      buf.slice p.bytes.length = some p.bytes ∧
      (∀ a, p.bytes.length ≤ a → buf.read a = s.txBuf.read a)

/-- R111: START_SEND during a session returns `Busy` and writes nothing, as the operation and as its
second row; no host operation but RESET ends a session whose acknowledgment has not been seen. -/
def Obligations.StartSendBusy : Prop :=
  (∀ p s, s.txPhase ≠ .idle →
    exec (.startSendBusy p) s = .next { s with result := .start .busy } ∧
    exec (.startSend p) s = .next { s with result := .start .busy }) ∧
  OnlyResetEndsASession

/-- R113: `SendStart` emits STX and goes to `SendLength`; the phase is reached from an accepted
START_SEND only. -/
def Obligations.SendStartPhase : Prop :=
  (∀ s, s.txPhase = .sendStart → exec .txSendStart s = .next { s with
    channel := some 0x02#8, txPhase := .sendLength, result := .transmitter .pending }) ∧
  (∀ i s t, exec i s = .next t → t.txPhase = .sendStart →
    s.txPhase = .sendStart ∨ ∃ p, i = .startSend p ∧ s.txPhase = .idle)

/-- R114: `SendLength` emits `tx_len` and skips the payload when it is 0. -/
def Obligations.SendLengthPhase : Prop :=
  ∀ s, s.txPhase = .sendLength →
    (s.txLen = 0#8 → exec .txSendLength s = .next { s with
      channel := some s.txLen, txPhase := .sendChecksum, result := .transmitter .pending }) ∧
    (s.txLen ≠ 0#8 → exec .txSendLength s = .next { s with
      channel := some s.txLen, txIdx := 0#8, txPhase := .sendPayload, result := .transmitter .pending })

/-- R115: `SendPayload` emits `tx_buf[tx_idx]` and moves to the next index, or to `SendChecksum` after
the last byte. -/
def Obligations.SendPayloadPhase : Prop :=
  ∀ s b, s.txPhase = .sendPayload → s.txIdx.toNat < s.txLen.toNat →
    s.txBuf.read s.txIdx.toNat = some b →
    exec .txSendPayload s = .next { s with
      channel := some b
      txPhase := if s.txIdx.toNat + 1 = s.txLen.toNat then .sendChecksum else .sendPayload
      txIdx := s.txIdx + 1#8
      result := .transmitter .pending } ∧
    (s.txIdx + 1#8).toNat = s.txIdx.toNat + 1

/-- R116 and R117: `SendChecksum` emits the stored checksum; `SendEnd` emits ETX and records
`tick + TIMEOUT` in the same step; `ack_received` is not cleared. -/
def Obligations.SendChecksumAndEndPhases : Prop :=
  (∀ s, s.txPhase = .sendChecksum → exec .txSendChecksum s = .next { s with
    channel := some s.txChk, txPhase := .sendEnd, result := .transmitter .pending }) ∧
  (∀ s, s.txPhase = .sendEnd → exec .txSendEnd s = .next { s with
    channel := some 0x03#8, deadline := s.tick + s.timeout, txPhase := .awaitAck
    result := .transmitter .pending })

/-- R118: in `AwaitAck` a seen acknowledgment ends the session, whatever tick and deadline are. -/
def Obligations.AcknowledgmentEndsTheSession : Prop :=
  ∀ s, s.txPhase = .awaitAck → s.ackReceived = true →
    exec .txAwaitAckAck s = .next { s with
      ackReceived := false, txPhase := .idle, result := .transmitter .sent } ∧
    selectedTxRow s = .txAwaitAckAck

/-- R119: in `AwaitAck`, at or after the deadline without an acknowledgment, the step counts a
retransmission and emits the next STX itself; the earliest such step after the ETX of tick `t_e` is that
of tick `max (t_e + 1) (t_e + TIMEOUT)`. -/
def Obligations.TimeoutRetransmits : Prop :=
  (∀ s, s.txPhase = .awaitAck → s.ackReceived = false → s.deadline ≤ s.tick →
    exec .txAwaitAckTimeout s = .next { s with
      retxCount := s.retxCount + 1, channel := some 0x02#8, txPhase := .sendLength
      result := .transmitter .pending } ∧
    selectedTxRow s = .txAwaitAckTimeout) ∧
  (∀ s t τ, s.txPhase = .sendEnd → exec .txSendEnd s = .next t → s.tick < τ →
    (selectedTxRow { t with tick := τ, ackReceived := false } = .txAwaitAckTimeout ↔
      max (s.tick + 1) (s.tick + s.timeout) ≤ τ))

/-- R120 and R121: waiting and idling write and emit nothing, and `Sent` is returned by the step that
consumes the acknowledgment and by no other. -/
def Obligations.WaitAndIdleWriteNothing : Prop :=
  (∀ s, s.txPhase = .awaitAck → s.ackReceived = false → s.tick < s.deadline →
    exec .txAwaitAckWait s = .next { s with result := .transmitter .pending } ∧
    selectedTxRow s = .txAwaitAckWait) ∧
  (∀ s, s.txPhase = .idle → exec .txIdle s = .next { s with result := .transmitter .idle } ∧
    selectedTxRow s = .txIdle) ∧
  (∀ i s t, exec i s = .next t → t.result = .transmitter .sent → i = .txAwaitAckAck) ∧
  (∀ rxEn s t rx, exec (.tick rxEn) s = .next t → t.result = .tick .sent rx →
    s.txPhase = .awaitAck ∧ s.ackReceived = true ∧ t.txPhase = .idle)

/-- 42_transmitter.md section 2: the transmitter step is the one row that the state selects. -/
def Obligations.TransmitterStepIsTheSelectedRow : Prop :=
  (∀ s, andThen (transmitterStep s) (fun (t, r) => .next { t with result := .transmitter r }) =
    exec (selectedTxRow s) s) ∧
  (∀ s i, i.inSpace (txSpace s) = true → encode i = [s.txPhase.ordinal.setWidth 8] → i = selectedTxRow s)

/-- The transmitter never reads the channel (20_memory.md section 2): what a transmitter row does but
for the channel is the same whatever the slot holds. -/
def Obligations.TransmitterIgnoresTheChannel : Prop :=
  ∀ s t ch, exec (selectedTxRow s) s = .next t →
    ∃ u, exec (selectedTxRow s) { s with channel := ch } = .next u ∧
      (u = { t with channel := u.channel }) ∧ (u.channel = t.channel ∨ u.channel = ch)

/-- The model's choice (log entry 7): a decoder or transmitter row in a state that does not select it
is refused by name. -/
def Obligations.UnselectedRowsAreRefused : Prop :=
  (∀ s i d c, i.inSpace (.decByte d c) = true → i.inSpace (decSpace s) = false →
    exec i s = .refused .rowNotSelected) ∧
  (∀ s i a d, i.inSpace (.txStep a d) = true → i ≠ selectedTxRow s →
    exec i s = .refused .rowNotSelected)

/-! ## The receiver (43_receiver.md) -/

/-- R130 and R132: the receiver step on an empty slot, and on a byte: the byte leaves the slot, the decoder
takes exactly one transition on it, and on `Ok` the acknowledgment is written in the same step;
the receiver not stepped writes nothing. -/
def Obligations.ReceiverStep : Prop :=
  (∀ s, exec .rxNotStepped s = .next { s with result := .receiver .notStepped false }) ∧
  rxRow false = .rxNotStepped ∧
  (∀ s, s.channel = none → exec .rxStep s = .next { s with result := .receiver .noByte false }) ∧
  (∀ s b u, s.channel = some b → exec (.decodeStep b) { s with channel := none } = .next u →
    (∀ bs n, u.result = .decoder (.ok bs n) →
      exec .rxStep s = .next { u with
        channel := some 0x06#8, result := .receiver (.decoded (.ok bs n)) true }) ∧
    (∀ r, u.result = .decoder r → (∀ bs n, r ≠ .ok bs n) →
      u.channel = none ∧
      exec .rxStep s = .next { u with result := .receiver (.decoded r) false })) ∧
  (∀ s, DecoderInv s → ∃ t r a, exec .rxStep s = .next t ∧ t.result = .receiver r a)

/-- 43_receiver.md section 1: the acknowledgment 0x06 is written with `ack_out` after a decoder `Ok`, as
the row RX.ACKWRITE on its own in any state whose last result is that `Ok`, a DECODE_STEP's too (the
model's choice, log entry 7); inside the receiver step (R131) there is nothing to choose: it
raises `ack_out`, and leaves a byte in the slot, exactly when it returned `Ok`. -/
def Obligations.AcknowledgmentWrite : Prop :=
  (∀ s bs n, s.result = .decoder (.ok bs n) →
    exec .rxAckWrite s = .next { s with
      channel := some 0x06#8, result := .receiver (.decoded (.ok bs n)) true }) ∧
  (∀ s t r a, exec .rxStep s = .next t → t.result = .receiver r a →
    (a = true ↔ ∃ bs n, r = .decoded (.ok bs n)) ∧
    t.channel = if a then some 0x06#8 else none)

/-! ## The scheduler (44_scheduler.md) -/

/-- 44_scheduler.md section 1, the handoff as the row SCHED.HANDOFF on its own, its condition read from the
last result (the model's choice, log entry 7): with `ack_out` raised and the ACK in the slot, the handoff sets the mark and empties the slot;
a byte that is no ACK it leaves alone (its test on the byte). -/
def Obligations.Handoff : Prop :=
  ∀ s r, s.result = .receiver r true →
    (s.channel = some 0x06#8 → exec .schedHandoff s = .next { s with
      ackReceived := true, channel := none, result := .none }) ∧
    (s.channel ≠ some 0x06#8 → exec .schedHandoff s = .next { s with result := .none })

/-- R140: TICK is its four parts in order: increment; the transmitter row that the incremented state
selects; the receiver row that `rx_en` selects, on what the transmitter left; the handoff if that row
raised `ack_out`. -/
def Obligations.TickIsItsParts : Prop :=
  ∀ rxEn s s1 s2 tx s3 rx ackOut, s1 = { s with tick := s.tick + 1 } →
    exec (selectedTxRow s1) s1 = .next s2 → s2.result = .transmitter tx →
    exec (rxRow rxEn) s2 = .next s3 → s3.result = .receiver rx ackOut →
    exec (.tick rxEn) s = .next
      (if ackOut then { s3 with ackReceived := true, channel := none, result := .tick tx rx }
        else { s3 with result := .tick tx rx })

/-- TICK completes wherever the invariants of 10_state.md hold, with a result of each machine, and
leaves alone what no machine's step writes. Where they do not hold, in states that no run reaches, a fault of
one of its parts is the tick's: the spec has no fault (R47, R166), and both faults are the model's (log
entries 5 and 6). -/
def Obligations.TickCompletes : Prop :=
  (∀ rxEn s, BlockInv s →
    ∃ t tx rx, exec (.tick rxEn) s = .next t ∧ t.result = .tick tx rx ∧ t.tick = s.tick + 1 ∧
      t.txLen = s.txLen ∧ t.txChk = s.txChk ∧ t.txBuf = s.txBuf ∧ t.timeout = s.timeout ∧
      t.port = s.port ∧
      (rxEn = false → rx = .notStepped ∧ t.decState = s.decState ∧ t.rxLen = s.rxLen ∧
        t.rxCount = s.rxCount ∧ t.rxChk = s.rxChk ∧ t.rxBuf = s.rxBuf)) ∧
  (∀ rxEn s s1 f, s1 = { s with tick := s.tick + 1 } →
    (exec (selectedTxRow s1) s1 = .fault f → exec (.tick rxEn) s = .fault f) ∧
    (∀ s2, exec (selectedTxRow s1) s1 = .next s2 → exec (rxRow rxEn) s2 = .fault f →
      exec (.tick rxEn) s = .fault f))

/-- R52: one-tick latency. What the transmitter does in a tick is the same whether or not the receiver
is stepped in it, so no acknowledgment of that tick is seen; and the mark that a tick sets is seen by
the transmitter row of the next. -/
def Obligations.AcknowledgmentLatency : Prop :=
  (∀ s t u tx rx tx' rx', exec (.tick true) s = .next t → exec (.tick false) s = .next u →
    t.result = .tick tx rx → u.result = .tick tx' rx' →
    tx = tx' ∧ t.txPhase = u.txPhase ∧ t.txIdx = u.txIdx ∧ t.retxCount = u.retxCount ∧
    t.deadline = u.deadline) ∧
  (∀ s t tx bs n, exec (.tick true) s = .next t → t.result = .tick tx (.decoded (.ok bs n)) →
    t.ackReceived = true ∧
    (t.txPhase = .awaitAck → selectedTxRow { t with tick := t.tick + 1 } = .txAwaitAckAck))

/-- 44_scheduler.md section 2: the channel at operation boundaries. After a tick with the receiver it is
empty; after one without, it is as the transmitter row left it; no other host operation but RESET
touches it. -/
def Obligations.ChannelAtBoundaries : Prop :=
  (∀ s t, exec (.tick true) s = .next t → t.channel = none) ∧
  (∀ s t u, exec (.tick false) s = .next t →
    exec (selectedTxRow { s with tick := s.tick + 1 }) { s with tick := s.tick + 1 } = .next u →
    t.channel = u.channel) ∧
  (∀ i s t, i.inSpace (hostSpace s) = true → exec i s = .next t → i ≠ .reset →
    (∀ rxEn, i ≠ .tick rxEn) → t.channel = s.channel)

/-- 44_scheduler.md section 3: a mark set while the transmitter is not in `AwaitAck` is kept by every
tick until it gets there. -/
def Obligations.LateAcknowledgmentIsKept : Prop :=
  ∀ rxEn s t, s.ackReceived = true → s.txPhase ≠ .awaitAck → exec (.tick rxEn) s = .next t →
    t.ackReceived = true

/-- 42_transmitter.md section 3 and 95_test_vectors.md scenario S7: from `Idle` with the decoder in
`AwaitStart` and the receiver stepped in every tick, a session of `n` bytes delivers its payload at tick
`n + 4` and ends at tick `n + 5` without a retransmission. -/
def Obligations.LossFreeSession : Prop :=
  ∀ p s, s.txPhase = .idle → s.decState = .awaitStart →
    ∃ s0 t u, exec (.startSend p) s = .next s0 ∧
      runTicks true (p.bytes.length + 4) s0 = .next t ∧
      t.result = .tick .pending (.decoded (.ok p.bytes (payloadLen p))) ∧
      t.ackReceived = true ∧
      runTicks true (p.bytes.length + 5) s0 = .next u ∧
      u.result = .tick .sent .noByte ∧ u.txPhase = .idle ∧ u.retxCount = 0 ∧
      u.tick = s.tick + p.bytes.length + 5 ∧ (hostView u).payload = some p.bytes

/-- 42_transmitter.md section 3 and 95_test_vectors.md scenario S8: with the receiver never stepped,
`retx_count` after `k + 1` ticks is the floor of `k` over the period; every result is `Pending`. -/
def Obligations.RetransmissionSchedule : Prop :=
  ∀ p s k, s.txPhase = .idle →
    ∃ s0 t, exec (.startSend p) s = .next s0 ∧ runTicks false (k + 1) s0 = .next t ∧
      t.retxCount = k / retxPeriod p.bytes.length s.timeout ∧
      t.result = .tick .pending .notStepped

/-- 40_checksum_encoder.md section 2: every attempt of a session emits exactly the bytes of
`encode_frame`, one a tick, and then the channel keeps the ETX until the next attempt. -/
def Obligations.EveryAttemptEmitsTheFrame : Prop :=
  ∀ p s k, s.txPhase = .idle →
    ∃ s0 t, exec (.startSend p) s = .next s0 ∧ runTicks false (k + 1) s0 = .next t ∧
      t.channel = some ((frameBytes p).getD (k % retxPeriod p.bytes.length s.timeout) 0x03#8)

/-! ## Wire symbols as rows (log entry 8) -/

/-- The model's reading of the wire symbols (log entry 8, from 30_encoding.md sections 1 to 3): STX and ETX
are the decoder's step on that byte in every decoder state; a frame is, in every decoder state, DECODE_STEP
on each of its bytes, so it completes under the decoder's invariant and keeps it, writes decoder registers
only, and leaves `rx_buf` alone from as far above `rx_count` as it has bytes; the acknowledgment, sent alone,
becomes the mark. -/
def Obligations.WireSymbols : Prop :=
  (∀ s, exec .stx s = exec (.decodeStep 0x02#8) s ∧ exec .etx s = exec (.decodeStep 0x03#8) s) ∧
  (∀ s, DecoderInv s → (∃ t r, exec .stx s = .next t ∧ t.result = .decoder r) ∧
    (∃ t r, exec .etx s = .next t ∧ t.result = .decoder r)) ∧
  (∀ p s, exec (.frame p) s = runDecodeSteps (frameBytes p) s) ∧
  (∀ p s, DecoderInv s → ∃ t r, exec (.frame p) s = .next t ∧ t.result = .decoder r ∧ DecoderInv t ∧
    t = { s with
      decState := t.decState, rxLen := t.rxLen, rxCount := t.rxCount, rxChk := t.rxChk, rxBuf := t.rxBuf
      result := t.result, delivered := t.delivered, rxWritten := t.rxWritten } ∧
    ∀ a, s.rxCount.toNat + p.bytes.length + 4 ≤ a → t.rxBuf.read a = s.rxBuf.read a) ∧
  (∀ s, exec .ack s = .next { s with ackReceived := true, channel := none, result := .none })

/-! ## Invariants (10_state.md sections 2 and 3) -/

/-- The invariants hold after reset. -/
def Obligations.InvAtReset : Prop :=
  BlockInv State.reset

/-- Every step keeps the decoder's and the transmitter's invariants and the buffers' canonical form. -/
def Obligations.StepKeepsInv : Prop :=
  ∀ s t, BlockInv s → step s = .next t → BlockInv t

/-- 20_memory.md section 3: no access is out of range and none reads an unwritten byte: under the
invariant a step never faults. -/
def Obligations.StepNeverFaults : Prop :=
  ∀ s f, BlockInv s → step s ≠ .fault f

/-- R5: buffer bytes without a specified value never reach an output or any other register: two states
that differ at most in such bytes step to states that differ at most in such bytes, with equal results,
and `rx_buf[0..rx_len)` is equal whenever the decoder is in `AwaitStart`. What a host's read of such a byte
gives is `RxBufferAccess`. -/
def Obligations.UnspecifiedBytesNeverShow : Prop :=
  ∀ s t s', BlockInv s → SameSpecified s t → step s = .next s' →
    ∃ t', step t = .next t' ∧ SameSpecified s' t' ∧ t'.result = s'.result ∧
      (s'.decState = .awaitStart → t'.rxBuf.slice t'.rxLen.toNat = s'.rxBuf.slice s'.rxLen.toNat)

/-- 10_state.md section 6: a retransmission counter as wide as the tick counter never overflows before
it, after any number of further steps. -/
def Obligations.RetxCounterFitsItsRegister : Prop :=
  ∀ n s t, BlockInv s → Sys2Proof.core.run n s = .next t → t.tick < 2 ^ Config.tickW →
    t.retxCount < 2 ^ Config.retxW
end

