-- ==== Sys2Proof/Laws/State.lean ====
section
/-! SUPPORT. The small lemmas of the state's updates, one per field, and of the sequencing operations. -/

namespace Sys2Proof.Machine

/-! ## Fields after an update -/

@[simp] theorem withResult_decState (s : State) (r : OpResult) : (s.withResult r).decState = s.decState := rfl
@[simp] theorem withResult_rxLen (s : State) (r : OpResult) : (s.withResult r).rxLen = s.rxLen := rfl
@[simp] theorem withResult_rxCount (s : State) (r : OpResult) : (s.withResult r).rxCount = s.rxCount := rfl
@[simp] theorem withResult_rxChk (s : State) (r : OpResult) : (s.withResult r).rxChk = s.rxChk := rfl
@[simp] theorem withResult_rxBuf (s : State) (r : OpResult) : (s.withResult r).rxBuf = s.rxBuf := rfl
@[simp] theorem withResult_txPhase (s : State) (r : OpResult) : (s.withResult r).txPhase = s.txPhase := rfl
@[simp] theorem withResult_txIdx (s : State) (r : OpResult) : (s.withResult r).txIdx = s.txIdx := rfl
@[simp] theorem withResult_txLen (s : State) (r : OpResult) : (s.withResult r).txLen = s.txLen := rfl
@[simp] theorem withResult_txChk (s : State) (r : OpResult) : (s.withResult r).txChk = s.txChk := rfl
@[simp] theorem withResult_txBuf (s : State) (r : OpResult) : (s.withResult r).txBuf = s.txBuf := rfl
@[simp] theorem withResult_retxCount (s : State) (r : OpResult) : (s.withResult r).retxCount = s.retxCount := rfl
@[simp] theorem withResult_deadline (s : State) (r : OpResult) : (s.withResult r).deadline = s.deadline := rfl
@[simp] theorem withResult_tick (s : State) (r : OpResult) : (s.withResult r).tick = s.tick := rfl
@[simp] theorem withResult_ackReceived (s : State) (r : OpResult) : (s.withResult r).ackReceived = s.ackReceived := rfl
@[simp] theorem withResult_channel (s : State) (r : OpResult) : (s.withResult r).channel = s.channel := rfl
@[simp] theorem withResult_timeout (s : State) (r : OpResult) : (s.withResult r).timeout = s.timeout := rfl
@[simp] theorem withResult_port (s : State) (r : OpResult) : (s.withResult r).port = s.port := rfl
@[simp] theorem withResult_result (s : State) (r : OpResult) : (s.withResult r).result = r := rfl
@[simp] theorem withResult_delivered (s : State) (r : OpResult) : (s.withResult r).delivered = s.delivered := rfl
@[simp] theorem withResult_rxWritten (s : State) (r : OpResult) : (s.withResult r).rxWritten = s.rxWritten := rfl

@[simp] theorem chWrite_decState (b : Byte) (s : State) : (chWrite b s).decState = s.decState := rfl
@[simp] theorem chWrite_rxLen (b : Byte) (s : State) : (chWrite b s).rxLen = s.rxLen := rfl
@[simp] theorem chWrite_rxCount (b : Byte) (s : State) : (chWrite b s).rxCount = s.rxCount := rfl
@[simp] theorem chWrite_rxChk (b : Byte) (s : State) : (chWrite b s).rxChk = s.rxChk := rfl
@[simp] theorem chWrite_rxBuf (b : Byte) (s : State) : (chWrite b s).rxBuf = s.rxBuf := rfl
@[simp] theorem chWrite_txPhase (b : Byte) (s : State) : (chWrite b s).txPhase = s.txPhase := rfl
@[simp] theorem chWrite_txIdx (b : Byte) (s : State) : (chWrite b s).txIdx = s.txIdx := rfl
@[simp] theorem chWrite_txLen (b : Byte) (s : State) : (chWrite b s).txLen = s.txLen := rfl
@[simp] theorem chWrite_txChk (b : Byte) (s : State) : (chWrite b s).txChk = s.txChk := rfl
@[simp] theorem chWrite_txBuf (b : Byte) (s : State) : (chWrite b s).txBuf = s.txBuf := rfl
@[simp] theorem chWrite_retxCount (b : Byte) (s : State) : (chWrite b s).retxCount = s.retxCount := rfl
@[simp] theorem chWrite_deadline (b : Byte) (s : State) : (chWrite b s).deadline = s.deadline := rfl
@[simp] theorem chWrite_tick (b : Byte) (s : State) : (chWrite b s).tick = s.tick := rfl
@[simp] theorem chWrite_ackReceived (b : Byte) (s : State) : (chWrite b s).ackReceived = s.ackReceived := rfl
@[simp] theorem chWrite_channel (b : Byte) (s : State) : (chWrite b s).channel = some b := rfl
@[simp] theorem chWrite_timeout (b : Byte) (s : State) : (chWrite b s).timeout = s.timeout := rfl
@[simp] theorem chWrite_port (b : Byte) (s : State) : (chWrite b s).port = s.port := rfl
@[simp] theorem chWrite_result (b : Byte) (s : State) : (chWrite b s).result = s.result := rfl
@[simp] theorem chWrite_delivered (b : Byte) (s : State) : (chWrite b s).delivered = s.delivered := rfl
@[simp] theorem chWrite_rxWritten (b : Byte) (s : State) : (chWrite b s).rxWritten = s.rxWritten := rfl

@[simp] theorem chClear_decState (s : State) : (chClear s).decState = s.decState := rfl
@[simp] theorem chClear_rxLen (s : State) : (chClear s).rxLen = s.rxLen := rfl
@[simp] theorem chClear_rxCount (s : State) : (chClear s).rxCount = s.rxCount := rfl
@[simp] theorem chClear_rxChk (s : State) : (chClear s).rxChk = s.rxChk := rfl
@[simp] theorem chClear_rxBuf (s : State) : (chClear s).rxBuf = s.rxBuf := rfl
@[simp] theorem chClear_txPhase (s : State) : (chClear s).txPhase = s.txPhase := rfl
@[simp] theorem chClear_txIdx (s : State) : (chClear s).txIdx = s.txIdx := rfl
@[simp] theorem chClear_txLen (s : State) : (chClear s).txLen = s.txLen := rfl
@[simp] theorem chClear_txChk (s : State) : (chClear s).txChk = s.txChk := rfl
@[simp] theorem chClear_txBuf (s : State) : (chClear s).txBuf = s.txBuf := rfl
@[simp] theorem chClear_retxCount (s : State) : (chClear s).retxCount = s.retxCount := rfl
@[simp] theorem chClear_deadline (s : State) : (chClear s).deadline = s.deadline := rfl
@[simp] theorem chClear_tick (s : State) : (chClear s).tick = s.tick := rfl
@[simp] theorem chClear_ackReceived (s : State) : (chClear s).ackReceived = s.ackReceived := rfl
@[simp] theorem chClear_channel (s : State) : (chClear s).channel = none := rfl
@[simp] theorem chClear_timeout (s : State) : (chClear s).timeout = s.timeout := rfl
@[simp] theorem chClear_port (s : State) : (chClear s).port = s.port := rfl
@[simp] theorem chClear_result (s : State) : (chClear s).result = s.result := rfl
@[simp] theorem chClear_delivered (s : State) : (chClear s).delivered = s.delivered := rfl
@[simp] theorem chClear_rxWritten (s : State) : (chClear s).rxWritten = s.rxWritten := rfl

@[simp] theorem tickIncrement_decState (s : State) : (tickIncrement s).decState = s.decState := rfl
@[simp] theorem tickIncrement_rxLen (s : State) : (tickIncrement s).rxLen = s.rxLen := rfl
@[simp] theorem tickIncrement_rxCount (s : State) : (tickIncrement s).rxCount = s.rxCount := rfl
@[simp] theorem tickIncrement_rxChk (s : State) : (tickIncrement s).rxChk = s.rxChk := rfl
@[simp] theorem tickIncrement_rxBuf (s : State) : (tickIncrement s).rxBuf = s.rxBuf := rfl
@[simp] theorem tickIncrement_txPhase (s : State) : (tickIncrement s).txPhase = s.txPhase := rfl
@[simp] theorem tickIncrement_txIdx (s : State) : (tickIncrement s).txIdx = s.txIdx := rfl
@[simp] theorem tickIncrement_txLen (s : State) : (tickIncrement s).txLen = s.txLen := rfl
@[simp] theorem tickIncrement_txChk (s : State) : (tickIncrement s).txChk = s.txChk := rfl
@[simp] theorem tickIncrement_txBuf (s : State) : (tickIncrement s).txBuf = s.txBuf := rfl
@[simp] theorem tickIncrement_retxCount (s : State) : (tickIncrement s).retxCount = s.retxCount := rfl
@[simp] theorem tickIncrement_deadline (s : State) : (tickIncrement s).deadline = s.deadline := rfl
@[simp] theorem tickIncrement_tick (s : State) : (tickIncrement s).tick = s.tick + 1 := rfl
@[simp] theorem tickIncrement_ackReceived (s : State) : (tickIncrement s).ackReceived = s.ackReceived := rfl
@[simp] theorem tickIncrement_channel (s : State) : (tickIncrement s).channel = s.channel := rfl
@[simp] theorem tickIncrement_timeout (s : State) : (tickIncrement s).timeout = s.timeout := rfl
@[simp] theorem tickIncrement_port (s : State) : (tickIncrement s).port = s.port := rfl
@[simp] theorem tickIncrement_result (s : State) : (tickIncrement s).result = s.result := rfl
@[simp] theorem tickIncrement_delivered (s : State) : (tickIncrement s).delivered = s.delivered := rfl
@[simp] theorem tickIncrement_rxWritten (s : State) : (tickIncrement s).rxWritten = s.rxWritten := rfl

@[simp] theorem withResult_withResult (s : State) (r q : OpResult) :
    (s.withResult r).withResult q = s.withResult q := rfl

/-! ## Sequencing -/

section Sequencing

variable {α β : Type}

@[simp] theorem andThen_next (a : α) (f : α → Outcome β) : andThen (.next a) f = f a := rfl

@[simp] theorem andThen_fault (r : Fault) (f : α → Outcome β) : andThen (.fault r) f = .fault r := rfl

@[simp] theorem andThen_refused (r : Refusal) (f : α → Outcome β) :
    andThen (.refused r) f = .refused r := rfl

/-- A sequence answers a next state only if both its parts do. -/
theorem andThen_eq_next {o : Outcome α} {f : α → Outcome β} {b : β} :
    andThen o f = .next b ↔ ∃ a, o = .next a ∧ f a = .next b := by
  cases o <;> simp

theorem andThen_assoc {γ : Type} (o : Outcome α) (f : α → Outcome β) (g : β → Outcome γ) :
    andThen (andThen o f) g = andThen o fun a => andThen (f a) g := by
  cases o <;> rfl

@[simp] theorem report_next (f : α → OpResult) (s : State) (a : α) :
    report f (.next (s, a)) = .next (s.withResult (f a)) := rfl

theorem report_eq_next {f : α → OpResult} {o : Outcome (State × α)} {t : State} :
    report f o = .next t ↔ ∃ s a, o = .next (s, a) ∧ t = s.withResult (f a) := by
  cases o with
  | next p => obtain ⟨s, a⟩ := p; simp [eq_comm]
  | fault r => simp [report]
  | refused r => simp [report]

@[simp] theorem whenSelected_true (o : Outcome State) : whenSelected true o = o := rfl

@[simp] theorem whenSelected_false (o : Outcome State) :
    whenSelected false o = .refused .rowNotSelected := rfl

/-- A row answers a next state only where its condition holds. -/
theorem whenSelected_eq_next {c : Bool} {o : Outcome State} {t : State} :
    whenSelected c o = .next t ↔ c = true ∧ o = .next t := by
  cases c <;> simp

end Sequencing

end Sys2Proof.Machine
end

