-- ==== Sys2Proof/Laws/Memory.lean ====
section
/-! SUPPORT. The laws of the payload buffers and of the checksum. -/

namespace Sys2Proof

/-! ## The checksum -/

theorem checksum_foldl (bs : List Byte) (c : Byte) :
    bs.foldl (fun c b => c ^^^ b) c = c ^^^ checksum bs := by
  induction bs generalizing c with
  | nil => simp [checksum]
  | cons b bs ih =>
    simp only [checksum, List.foldl_cons, BitVec.zero_xor]
    rw [ih (c ^^^ b), ih b, BitVec.xor_assoc]

@[simp] theorem checksum_nil : checksum [] = 0#8 := rfl

@[simp] theorem checksum_cons (b : Byte) (bs : List Byte) : checksum (b :: bs) = b ^^^ checksum bs := by
  simp only [checksum, List.foldl_cons, BitVec.zero_xor]
  exact checksum_foldl bs b

/-- The decoder's accumulator: one more byte is one more XOR. -/
theorem checksum_snoc (bs : List Byte) (b : Byte) : checksum (bs ++ [b]) = checksum bs ^^^ b := by
  simp [checksum, List.foldl_append]

namespace Machine

/-! ## Reading after writing -/

theorem read_write (m : Memory) (i j : Nat) (b : Byte) :
    (m.write i b).read j = if j = i then some b else m.read j := by
  induction m with
  | nil => by_cases h : i = j <;> simp [Memory.write, Memory.read, h, eq_comm]
  | cons c m ih =>
    obtain ⟨k, v⟩ := c
    simp only [Memory.write]
    split
    · by_cases h : i = j <;> simp [Memory.read, h, eq_comm]
    · split
      · next h => subst h; by_cases h : i = j <;> simp [Memory.read, h, eq_comm]
      · by_cases h : k = j
        · subst h; rename_i h _; simp [Memory.read]; omega
        · simp [Memory.read, h, ih]

@[simp] theorem read_write_same (m : Memory) (i : Nat) (b : Byte) : (m.write i b).read i = some b := by
  simp [read_write]

theorem read_write_other (m : Memory) {i j : Nat} (b : Byte) (h : j ≠ i) :
    (m.write i b).read j = m.read j := by
  simp [read_write, h]

/-! ## The canonical form -/

theorem write_wfFrom {m : Memory} {low i : Nat} {b : Byte} (h : m.wfFrom low = true)
    (hl : low ≤ i) (hi : i < Config.bufCap) : (m.write i b).wfFrom low = true := by
  induction m generalizing low with
  | nil => simp [Memory.write, Memory.wfFrom, hl, hi]
  | cons c m ih =>
    obtain ⟨k, v⟩ := c
    simp only [Memory.wfFrom, Bool.and_eq_true, decide_eq_true_eq] at h
    obtain ⟨⟨hk, hc⟩, hm⟩ := h
    simp only [Memory.write]
    split
    · simp [Memory.wfFrom, hl, hi, hc, hm]; omega
    · split
      · next e => subst e; simp [Memory.wfFrom, hl, hi, hm]
      · simp only [Memory.wfFrom, hk, hc, decide_true, Bool.true_and]
        exact ih hm (by omega)

/-- A write inside the buffer keeps the canonical form. -/
theorem write_wf {m : Memory} {i : Nat} {b : Byte} (h : m.wf = true) (hi : i < Config.bufCap) :
    (m.write i b).wf = true :=
  write_wfFrom h (Nat.zero_le _) hi

/-- So does loading bytes that end inside the buffer. -/
theorem load_wf {m : Memory} {i : Nat} {bs : List Byte} (h : m.wf = true)
    (hi : i + bs.length ≤ Config.bufCap) : (m.load i bs).wf = true := by
  induction bs generalizing m i with
  | nil => exact h
  | cons b bs ih =>
    simp only [List.length_cons] at hi
    exact ih (write_wf h (by omega)) (by omega)

/-! ## Slices -/

theorem slice_length {m : Memory} {n : Nat} {bs : List Byte} (h : m.slice n = some bs) :
    bs.length = n := by
  induction n generalizing bs with
  | zero => simp [Memory.slice] at h; simp [← h]
  | succ n ih =>
    simp only [Memory.slice] at h
    split at h
    · next xs b hx _ => simp at h; simp [← h, ih hx]
    · simp at h

theorem slice_succ {m : Memory} {n : Nat} {bs : List Byte} :
    m.slice (n + 1) = some bs ↔ ∃ xs b, m.slice n = some xs ∧ m.read n = some b ∧ bs = xs ++ [b] := by
  simp only [Memory.slice]
  cases m.slice n <;> cases m.read n <;> simp [eq_comm]

/-- A slice reads the bytes below its end and no other. -/
theorem slice_congr {m m' : Memory} {n : Nat} (h : ∀ i < n, m'.read i = m.read i) :
    m'.slice n = m.slice n := by
  induction n with
  | zero => rfl
  | succ n ih =>
    simp only [Memory.slice, ih fun i hi => h i (by omega), h n (by omega)]

theorem slice_write_above {m : Memory} {n i : Nat} {b : Byte} (h : n ≤ i) :
    (m.write i b).slice n = m.slice n :=
  slice_congr fun j hj => read_write_other m b (by omega)

/-- Writing the byte right after a slice extends it. -/
theorem slice_write_end {m : Memory} {n : Nat} {b : Byte} {bs : List Byte} (h : m.slice n = some bs) :
    (m.write n b).slice (n + 1) = some (bs ++ [b]) := by
  rw [slice_succ]
  exact ⟨bs, b, by rw [slice_write_above (Nat.le_refl n), h], by simp, rfl⟩

theorem read_of_slice {m : Memory} {n i : Nat} {bs : List Byte} (h : m.slice n = some bs) (hi : i < n) :
    m.read i = bs[i]? := by
  induction n generalizing bs with
  | zero => omega
  | succ n ih =>
    obtain ⟨xs, b, hx, hb, rfl⟩ := slice_succ.mp h
    have hl := slice_length hx
    by_cases e : i = n
    · rw [e, hb, ← hl]; simp
    · rw [ih hx (by omega), List.getElem?_append_left (by omega)]

theorem load_slice {m : Memory} {i : Nat} {bs xs : List Byte} (h : m.slice i = some xs) :
    (m.load i bs).slice (i + bs.length) = some (xs ++ bs) := by
  induction bs generalizing m i xs with
  | nil => simpa [Memory.load] using h
  | cons b bs ih =>
    have := ih (slice_write_end (b := b) h)
    simpa [Memory.load, Nat.add_assoc, Nat.add_comm 1] using this

/-- Loading a payload from index 0 makes it the slice of its length. -/
theorem load_slice_zero (m : Memory) (bs : List Byte) : (m.load 0 bs).slice bs.length = some bs := by
  simpa using load_slice (m := m) (i := 0) (bs := bs) (xs := []) rfl

theorem read_load_outside (m : Memory) (bs : List Byte) {i j : Nat} (h : j < i ∨ i + bs.length ≤ j) :
    (m.load i bs).read j = m.read j := by
  induction bs generalizing m i with
  | nil => rfl
  | cons b bs ih =>
    simp only [List.length_cons] at h
    rw [Memory.load, ih _ (by omega), read_write_other m b (by omega)]

/-! ## The accesses of a step -/

theorem bufRead_next {m : Memory} {i b : Byte} :
    bufRead m i = .next b ↔ i.toNat < Config.bufCap ∧ m.read i.toNat = some b := by
  simp only [bufRead]
  split
  · next h => cases m.read i.toNat <;> simp [h]
  · next h => simp [h]

theorem bufWrite_next {m m' : Memory} {i b : Byte} :
    bufWrite m i b = .next m' ↔ i.toNat < Config.bufCap ∧ m' = m.write i.toNat b := by
  simp only [bufWrite]
  split
  · next h => simp [h, eq_comm]
  · next h => simp [h]

theorem bufPayload_next {m : Memory} {n : Byte} {bs : List Byte} :
    bufPayload m n = .next bs ↔ m.slice n.toNat = some bs := by
  simp only [bufPayload]
  cases m.slice n.toNat <;> simp

end Machine

end Sys2Proof
end

