-- ==== Sys2Proof/Laws/Machines.lean ====
section
/-! SUPPORT. What each machine's step can do, said once: one inversion lemma per shared step (the
tables of R90 and R112, the receiver's of R130, the tick's parts of R140) and its frame. -/

namespace Sys2Proof.Machine

/-! ## Frames -/

/-- The registers that a decoder step leaves alone (R100). -/
structure DecoderFrame (s t : State) : Prop where
  txPhase : t.txPhase = s.txPhase
  txIdx : t.txIdx = s.txIdx
  txLen : t.txLen = s.txLen
  txChk : t.txChk = s.txChk
  txBuf : t.txBuf = s.txBuf
  retxCount : t.retxCount = s.retxCount
  deadline : t.deadline = s.deadline
  tick : t.tick = s.tick
  ackReceived : t.ackReceived = s.ackReceived
  channel : t.channel = s.channel
  timeout : t.timeout = s.timeout
  port : t.port = s.port
  result : t.result = s.result

/-- The registers that a receiver step leaves alone (R130). -/
structure ReceiverFrame (s t : State) : Prop where
  txPhase : t.txPhase = s.txPhase
  txIdx : t.txIdx = s.txIdx
  txLen : t.txLen = s.txLen
  txChk : t.txChk = s.txChk
  txBuf : t.txBuf = s.txBuf
  retxCount : t.retxCount = s.retxCount
  deadline : t.deadline = s.deadline
  tick : t.tick = s.tick
  ackReceived : t.ackReceived = s.ackReceived
  timeout : t.timeout = s.timeout
  port : t.port = s.port
  result : t.result = s.result

/-- The registers that a transmitter step leaves alone (R112). -/
structure TransmitterFrame (s t : State) : Prop where
  decState : t.decState = s.decState
  rxLen : t.rxLen = s.rxLen
  rxCount : t.rxCount = s.rxCount
  rxChk : t.rxChk = s.rxChk
  rxBuf : t.rxBuf = s.rxBuf
  txLen : t.txLen = s.txLen
  txChk : t.txChk = s.txChk
  txBuf : t.txBuf = s.txBuf
  tick : t.tick = s.tick
  timeout : t.timeout = s.timeout
  port : t.port = s.port
  result : t.result = s.result
  delivered : t.delivered = s.delivered
  rxWritten : t.rxWritten = s.rxWritten

/-! ## The decoder -/

/-- The table of R90: a decoder step that goes on is one of the eight transitions. -/
theorem decodeByte_cases {b : Byte} {s t : State} {r : DecResult} (h : decodeByte b s = .next (t, r)) :
    (s.decState = .awaitStart ∧ b = Config.stx ∧ r = .inProgress ∧
      t = { s with rxLen := 0#8, rxChk := 0#8, rxCount := 0#8, decState := .awaitLength, delivered := false }) ∨
    (s.decState = .awaitStart ∧ b ≠ Config.stx ∧ r = .inProgress ∧ t = s) ∨
    (s.decState = .awaitLength ∧ r = .inProgress ∧
      t = { s with rxLen := b, decState := if b = 0#8 then .awaitChecksum else .awaitPayload }) ∨
    (s.decState = .awaitPayload ∧ s.rxCount.toNat < Config.bufCap ∧ r = .inProgress ∧
      t = { s with
        rxBuf := s.rxBuf.write s.rxCount.toNat b
        rxChk := s.rxChk ^^^ b
        decState := if s.rxCount.toNat + 1 = s.rxLen.toNat then .awaitChecksum else .awaitPayload
        rxCount := s.rxCount + 1#8
        rxWritten := max s.rxWritten (s.rxCount.toNat + 1) }) ∨
    (s.decState = .awaitChecksum ∧ b = s.rxChk ∧ r = .inProgress ∧ t = { s with decState := .awaitEnd }) ∨
    (s.decState = .awaitChecksum ∧ b ≠ s.rxChk ∧ r = .error .checksumMismatch ∧
      t = { s with decState := .awaitStart }) ∨
    (s.decState = .awaitEnd ∧ b = Config.etx ∧
      (∃ bs, s.rxBuf.slice s.rxLen.toNat = some bs ∧ r = .ok bs s.rxLen) ∧
      t = { s with decState := .awaitStart, delivered := true }) ∨
    (s.decState = .awaitEnd ∧ b ≠ Config.etx ∧ r = .error .framingError ∧
      t = { s with decState := .awaitStart }) := by
  simp only [decodeByte] at h
  cases hd : s.decState <;> simp only [hd] at h
  case awaitStart =>
    split at h <;> simp_all [decOpen, decSkip]
  case awaitLength => simp_all [decLength]
  case awaitPayload =>
    simp only [decStore, andThen_eq_next, bufWrite_next] at h
    obtain ⟨buf, ⟨hc, rfl⟩, h⟩ := h
    simp_all
  case awaitChecksum => split at h <;> simp_all [decChecked, raiseError]
  case awaitEnd =>
    split at h
    · simp only [decDeliver, andThen_eq_next, bufPayload_next] at h
      obtain ⟨bs, hbs, h⟩ := h
      simp_all
    · simp_all [raiseError]

/-- A decoder step writes decoder registers only (R100). -/
theorem decodeByte_frame {b : Byte} {s t : State} {r : DecResult} (h : decodeByte b s = .next (t, r)) :
    t = { s with
      decState := t.decState, rxLen := t.rxLen, rxCount := t.rxCount, rxChk := t.rxChk, rxBuf := t.rxBuf
      delivered := t.delivered, rxWritten := t.rxWritten } := by
  rcases decodeByte_cases h with
    ⟨_, _, _, rfl⟩ | ⟨_, _, _, rfl⟩ | ⟨_, _, rfl⟩ | ⟨_, _, _, rfl⟩ | ⟨_, _, _, rfl⟩ | ⟨_, _, _, rfl⟩ |
    ⟨_, _, _, rfl⟩ | ⟨_, _, _, rfl⟩ <;> rfl

theorem decodeByte_frameFields {b : Byte} {s t : State} {r : DecResult}
    (h : decodeByte b s = .next (t, r)) : DecoderFrame s t := by
  rw [decodeByte_frame h]; constructor <;> rfl

/-- What a decoder step computes depends on decoder registers only: replacing any other register
before it or after it is the same. -/
theorem decodeByte_other (b : Byte) (s : State) (txPhase : TxPhase) (txIdx txLen txChk : Byte)
    (txBuf : Memory) (retxCount deadline tick : Nat) (ackReceived : Bool) (channel : Option Byte)
    (timeout : Nat) (port : List Byte) (result : OpResult) :
    decodeByte b { s with
        txPhase, txIdx, txLen, txChk, txBuf, retxCount, deadline, tick, ackReceived, channel, timeout, port, result } =
      andThen (decodeByte b s) fun (t, r) => .next ({ t with
        txPhase, txIdx, txLen, txChk, txBuf, retxCount, deadline, tick, ackReceived, channel, timeout, port, result }, r) := by
  simp only [decodeByte]
  cases hd : s.decState <;> dsimp only
  · split
    · rfl
    · simp [decSkip, hd]
  · rfl
  · simp only [decStore]; cases bufWrite s.rxBuf s.rxCount b <;> rfl
  · split <;> rfl
  · split
    · simp only [decDeliver]; cases bufPayload s.rxBuf s.rxLen <;> rfl
    · rfl

/-- No decoder step reads the marks of log entry 12; what it writes of them is all that depends on them. -/
theorem decodeByte_marks (b : Byte) (s : State) (delivered : Bool) (rxWritten : Nat) :
    decodeByte b { s with delivered, rxWritten } =
      andThen (decodeByte b s) fun (t, r) => .next ({ t with
        delivered := if s.decState = .awaitStart ∧ b = Config.stx then false
          else if s.decState = .awaitEnd ∧ b = Config.etx then true else delivered
        rxWritten := if s.decState = .awaitPayload then max rxWritten (s.rxCount.toNat + 1) else rxWritten }, r) := by
  simp only [decodeByte]
  cases hd : s.decState <;> dsimp only
  · split <;> simp [decOpen, decSkip, *]
  · simp [decLength]
  · simp only [decStore]; cases bufWrite s.rxBuf s.rxCount b <;> simp
  · split <;> simp [decChecked, raiseError]
  · split
    · simp only [decDeliver]; cases bufPayload s.rxBuf s.rxLen <;> simp [*]
    · simp [raiseError, *]

/-! ## The transmitter -/

/-- The table of R112: a transmitter step that goes on is one of its rows. -/
theorem transmitterStep_cases {s t : State} {r : TxResult} (h : transmitterStep s = .next (t, r)) :
    (s.txPhase = .idle ∧ r = .idle ∧ t = s) ∨
    (s.txPhase = .sendStart ∧ r = .pending ∧
      t = { s with txPhase := .sendLength, channel := some Config.stx }) ∨
    (s.txPhase = .sendLength ∧ s.txLen = 0#8 ∧ r = .pending ∧
      t = { s with txPhase := .sendChecksum, channel := some s.txLen }) ∨
    (s.txPhase = .sendLength ∧ s.txLen ≠ 0#8 ∧ r = .pending ∧
      t = { s with txIdx := 0#8, txPhase := .sendPayload, channel := some s.txLen }) ∨
    (s.txPhase = .sendPayload ∧ s.txIdx.toNat < Config.bufCap ∧ r = .pending ∧
      ∃ b, s.txBuf.read s.txIdx.toNat = some b ∧
        t = { s with
          txPhase := if s.txIdx.toNat + 1 = s.txLen.toNat then .sendChecksum else .sendPayload
          txIdx := s.txIdx + 1#8
          channel := some b }) ∨
    (s.txPhase = .sendChecksum ∧ r = .pending ∧
      t = { s with txPhase := .sendEnd, channel := some s.txChk }) ∨
    (s.txPhase = .sendEnd ∧ r = .pending ∧
      t = { s with deadline := s.tick + s.timeout, txPhase := .awaitAck, channel := some Config.etx }) ∨
    (s.txPhase = .awaitAck ∧ s.ackReceived = true ∧ r = .sent ∧
      t = { s with ackReceived := false, txPhase := .idle }) ∨
    (s.txPhase = .awaitAck ∧ s.ackReceived = false ∧ s.deadline ≤ s.tick ∧ r = .pending ∧
      t = { s with
        retxCount := s.retxCount + 1, txPhase := .sendLength, channel := some Config.stx }) ∨
    (s.txPhase = .awaitAck ∧ s.ackReceived = false ∧ s.tick < s.deadline ∧ r = .pending ∧ t = s) := by
  simp only [transmitterStep] at h
  cases hp : s.txPhase <;> simp only [hp] at h
  case idle => simp_all [txStepIdle]
  case sendStart => simp_all [txStepStart, chWrite]
  case sendLength =>
    simp only [txStepLength] at h
    split at h <;> simp_all [chWrite]
  case sendPayload =>
    simp only [txStepPayload, andThen_eq_next, bufRead_next] at h
    obtain ⟨b, ⟨hi, hb⟩, h⟩ := h
    simp_all [chWrite]
  case sendChecksum => simp_all [txStepChecksum, chWrite]
  case sendEnd => simp_all [txStepEnd, chWrite]
  case awaitAck =>
    split at h
    · simp_all [txStepAcked]
    · split at h <;> simp_all [ackDue, takeAckTimeout, txStepWait, chWrite]

/-- A transmitter step writes these registers only (R112). -/
theorem transmitterStep_frame {s t : State} {r : TxResult} (h : transmitterStep s = .next (t, r)) :
    t = { s with
      txPhase := t.txPhase, txIdx := t.txIdx, retxCount := t.retxCount, deadline := t.deadline
      ackReceived := t.ackReceived, channel := t.channel } := by
  rcases transmitterStep_cases h with
    ⟨_, _, rfl⟩ | ⟨_, _, rfl⟩ | ⟨_, _, _, rfl⟩ | ⟨_, _, _, rfl⟩ | ⟨_, _, _, _, _, rfl⟩ | ⟨_, _, rfl⟩ |
    ⟨_, _, rfl⟩ | ⟨_, _, _, rfl⟩ | ⟨_, _, _, _, rfl⟩ | ⟨_, _, _, _, rfl⟩ <;> rfl

theorem transmitterStep_frameFields {s t : State} {r : TxResult} (h : transmitterStep s = .next (t, r)) :
    TransmitterFrame s t := by
  rw [transmitterStep_frame h]; constructor <;> rfl

/-- What a transmitter step computes depends on the transmitter's registers, `tick` and `TIMEOUT` only:
replacing any other register before it or after it is the same. -/
theorem transmitterStep_other (s : State) (decState : DecState) (rxLen rxCount rxChk : Byte) (rxBuf : Memory)
    (port : List Byte) (result : OpResult) (delivered : Bool) (rxWritten : Nat) :
    transmitterStep { s with decState, rxLen, rxCount, rxChk, rxBuf, port, result, delivered, rxWritten } =
      andThen (transmitterStep s) fun (t, r) =>
        .next ({ t with decState, rxLen, rxCount, rxChk, rxBuf, port, result, delivered, rxWritten }, r) := by
  obtain ⟨d, rl, rc, rk, rb, p, ti, tl, tk, tb, rt, dl, tc, ar, ch, tm, po, re, de, wr⟩ := s
  cases p
  case sendLength => by_cases h : tl = 0#8 <;> simp [transmitterStep, txStepLength, h, chWrite]
  case sendPayload =>
    simp only [transmitterStep, txStepPayload]
    cases bufRead tb ti <;> rfl
  case awaitAck =>
    cases ar
    · by_cases h : dl ≤ tc <;> simp [transmitterStep, ackDue, h, takeAckTimeout, txStepWait, chWrite]
    · rfl
  all_goals rfl

/-- A transmitter step writes the slot or leaves it, and never reads it (R42). -/
theorem transmitterStep_channel (s : State) (ch : Option Byte) :
    transmitterStep { s with channel := ch } =
      andThen (transmitterStep s) fun (t, r) =>
        .next ({ t with
          channel := if s.txPhase = .idle ∨ s.txPhase = .awaitAck ∧ (s.ackReceived = true ∨ s.tick < s.deadline)
            then ch else t.channel }, r) := by
  obtain ⟨d, rl, rc, rk, rb, p, ti, tl, tk, tb, rt, dl, tc, ar, c, tm, po, re, de, wr⟩ := s
  cases p
  case sendLength => by_cases h : tl = 0#8 <;> simp [transmitterStep, txStepLength, h, chWrite]
  case sendPayload =>
    simp only [transmitterStep, txStepPayload]
    cases bufRead tb ti <;> rfl
  case awaitAck =>
    cases ar
    · by_cases h : dl ≤ tc
      · simp [transmitterStep, ackDue, h, takeAckTimeout, chWrite, Nat.not_lt.mpr h]
      · simp [transmitterStep, ackDue, h, txStepWait, Nat.lt_of_not_le h]
    · rfl
  all_goals rfl

/-! ## The receiver -/

/-- The table of R130. -/
theorem receiverStep_cases {s t : State} {r : RxResult} {ackOut : Bool}
    (h : receiverStep s = .next (t, r, ackOut)) :
    (s.channel = none ∧ r = .noByte ∧ ackOut = false ∧ t = s) ∨
    (∃ b u d, s.channel = some b ∧ decodeByte b (chClear s) = .next (u, d) ∧ r = .decoded d ∧
      ((∃ bs n, d = .ok bs n ∧ ackOut = true ∧ t = chWrite Config.ack u) ∨
        ((∀ bs n, d ≠ .ok bs n) ∧ ackOut = false ∧ t = u))) := by
  simp only [receiverStep, chRead] at h
  cases hc : s.channel with
  | none => simp_all
  | some b =>
    simp only [hc, andThen_eq_next] at h
    obtain ⟨⟨u, d⟩, hd, h⟩ := h
    refine .inr ⟨b, u, d, rfl, hd, ?_⟩
    cases d <;> simp_all [afterDecode, ackWrite]

theorem receiverStep_frameFields {s t : State} {r : RxResult} {ackOut : Bool}
    (h : receiverStep s = .next (t, r, ackOut)) : ReceiverFrame s t := by
  rcases receiverStep_cases h with ⟨_, _, _, rfl⟩ | ⟨b, u, d, _, hd, _, h⟩
  · constructor <;> rfl
  · have f := decodeByte_frameFields hd
    rcases h with ⟨_, _, _, _, rfl⟩ | ⟨_, _, rfl⟩ <;>
      exact ⟨f.txPhase, f.txIdx, f.txLen, f.txChk, f.txBuf, f.retxCount, f.deadline, f.tick, f.ackReceived,
        f.timeout, f.port, f.result⟩

/-- What the receiver leaves in the slot (R130, R131): the ACK if it raised `ack_out`, else nothing. -/
theorem receiverStep_channel {s t : State} {r : RxResult} {ackOut : Bool}
    (h : receiverStep s = .next (t, r, ackOut)) :
    t.channel = (if ackOut then some Config.ack else none) ∧
      (ackOut = true ↔ ∃ bs n, r = .decoded (.ok bs n)) := by
  rcases receiverStep_cases h with ⟨hc, rfl, rfl, rfl⟩ | ⟨b, u, d, _, hd, rfl, ⟨bs, n, rfl, rfl, rfl⟩ | ⟨hn, rfl, rfl⟩⟩
  · simp [hc]
  · simp
  · simpa [(decodeByte_frameFields hd).channel] using hn

/-- What part (3) of a tick computes depends on the decoder's registers and the slot only: replacing any
other register before it or after it is the same. -/
theorem receiverPart_other (rxEn : Bool) (s : State) (txPhase : TxPhase) (txIdx txLen txChk : Byte)
    (txBuf : Memory) (retxCount deadline tick : Nat) (ackReceived : Bool) (timeout : Nat) (port : List Byte)
    (result : OpResult) :
    receiverPart rxEn { s with
        txPhase, txIdx, txLen, txChk, txBuf, retxCount, deadline, tick, ackReceived, timeout, port, result } =
      andThen (receiverPart rxEn s) fun (t, r) => .next ({ t with
        txPhase, txIdx, txLen, txChk, txBuf, retxCount, deadline, tick, ackReceived, timeout, port, result }, r) := by
  cases rxEn
  · rfl
  · simp only [receiverPart, if_true, receiverStep, chRead]
    obtain ⟨d, rl, rc, rk, rb, p, ti, tl, tk, tb, rt, dl, tc, ar, c, tm, po, re, de, wr⟩ := s
    cases c with
    | none => rfl
    | some b =>
      dsimp only [chClear]
      rw [decodeByte_other b ⟨d, rl, rc, rk, rb, p, ti, tl, tk, tb, rt, dl, tc, ar, none, tm, po, re, de, wr⟩, andThen_assoc,
        andThen_assoc]
      cases h : decodeByte b ⟨d, rl, rc, rk, rb, p, ti, tl, tk, tb, rt, dl, tc, ar, none, tm, po, re, de, wr⟩ with
      | next q =>
        obtain ⟨u, r⟩ := q
        have := (decodeByte_frameFields h).channel
        cases r <;> simp_all [afterDecode, ackWrite, chWrite]
      | fault f => rfl
      | refused f => rfl

/-! ## The tick -/

/-- The four parts of a tick that goes on (R140). -/
theorem tickBody_cases {rxEn : Bool} {s t : State} {tx : TxResult} {rx : RxResult}
    (h : tickBody rxEn s = .next (t, tx, rx)) :
    ∃ s1 s2 ackOut, transmitterStep (tickIncrement s) = .next (s1, tx) ∧
      receiverPart rxEn s1 = .next (s2, rx, ackOut) ∧ t = if ackOut then handoff s2 else s2 := by
  simp only [tickBody, andThen_eq_next] at h
  obtain ⟨⟨s1, tx1⟩, h1, ⟨s2, rx1, a⟩, h2, h3⟩ := h
  simp only [Host.Outcome.next.injEq, Prod.mk.injEq] at h3
  obtain ⟨rfl, rfl, rfl⟩ := h3
  exact ⟨s1, s2, a, h1, h2, rfl⟩

/-- The handoff of a tick always finds the ACK that the receiver has just written (R143). -/
theorem handoff_ackWrite (s : State) :
    handoff (chWrite Config.ack s) = { s with channel := none, ackReceived := true } := by
  simp [handoff, chWrite, chClear]

end Sys2Proof.Machine
end

