-- ==== Sys2Proof/Laws/Decoding.lean ====
section
/-! SUPPORT. The operand codecs of the host port are inverse to each other, and the port values of
`tx_phase` name it. -/

namespace Sys2Proof

theorem payloadLen_toNat (p : Payload) : (payloadLen p).toNat = p.bytes.length := by
  have := p.short
  simp only [payloadLen, BitVec.toNat_ofNat, Config.maxLen] at *
  omega

/-- A payload behind its length byte is read back, and nothing after it is touched. -/
theorem takePayload_lengthPrefixed (p : Payload) (rest : List Byte) :
    takePayload (lengthPrefixed p ++ rest) = .ok (p, rest) := by
  simp [lengthPrefixed, takePayload, payloadLen_toNat]

theorem takeFlagged_flagged (bs rest : List Byte) : takeFlagged (flagged bs ++ rest) = .ok (bs, rest) := by
  induction bs with
  | nil => cases rest <;> simp [flagged, takeFlagged]
  | cons b bs ih => simp [flagged, takeFlagged, ih]

theorem ofOrdinal_ordinal (p : TxPhase) : TxPhase.ofOrdinal p.ordinal = some p := by
  cases p <;> rfl

end Sys2Proof
end

