-- ==== Sys2Proof/Laws/PerInstr.lean ====
section
/-! SUPPORT. Statements about every row as syntax, one lemma per constructor. -/

namespace Sys2Proof.Laws.TableRow

/-- The first byte of a row's encoding meets the row's match under its mask, as the opcode table gives
the two. -/
def Statement (i : Instr) : Prop :=
  i.wf = true → ∃ b rest, encode i = b :: rest ∧ b &&& (tableMatch i).2 = (tableMatch i).1

theorem reset : Statement .reset := fun _ => ⟨_, _, rfl, by decide⟩

theorem startSend (p : Payload) : Statement (.startSend p) := fun _ => ⟨_, _, rfl, by simp [tableMatch]⟩

theorem startSendBusy (p : Payload) : Statement (.startSendBusy p) := fun _ => ⟨_, _, rfl, by simp [tableMatch]⟩

theorem tick (rxEn : Bool) : Statement (.tick rxEn) := fun _ => ⟨_, _, rfl, by simp [tableMatch]⟩

theorem decodeStep (b : Byte) : Statement (.decodeStep b) := fun _ => ⟨_, _, rfl, by simp [tableMatch]⟩

theorem checksum (bs : List Byte) : Statement (.checksum bs) := fun _ => ⟨_, _, rfl, by simp [tableMatch]⟩

theorem encodeFrame (p : Payload) : Statement (.encodeFrame p) := fun _ => ⟨_, _, rfl, by simp [tableMatch]⟩

theorem stx : Statement .stx := fun _ => ⟨_, _, rfl, by decide⟩

theorem etx : Statement .etx := fun _ => ⟨_, _, rfl, by decide⟩

theorem ack : Statement .ack := fun _ => ⟨_, _, rfl, by decide⟩

theorem frame (p : Payload) : Statement (.frame p) := fun _ => ⟨_, _, rfl, by simp [tableMatch]; decide⟩

theorem decStartStx : Statement .decStartStx := fun _ => ⟨_, _, rfl, by decide⟩

theorem decStartSkip (b : Byte) : Statement (.decStartSkip b) := fun _ => ⟨_, _, rfl, by simp [tableMatch]⟩

theorem decLenZero : Statement .decLenZero := fun _ => ⟨_, _, rfl, by decide⟩

theorem decLenNonzero (b : Byte) : Statement (.decLenNonzero b) := fun _ => ⟨_, _, rfl, by simp [tableMatch]⟩

theorem decPayload (b : Byte) : Statement (.decPayload b) := fun _ => ⟨_, _, rfl, by simp [tableMatch]⟩

theorem decChkMatch (b : Byte) : Statement (.decChkMatch b) := fun _ => ⟨_, _, rfl, by simp [tableMatch]⟩

theorem decChkMismatch (b : Byte) : Statement (.decChkMismatch b) := fun _ => ⟨_, _, rfl, by simp [tableMatch]⟩

theorem decEndEtx : Statement .decEndEtx := fun _ => ⟨_, _, rfl, by decide⟩

theorem decEndBad (b : Byte) : Statement (.decEndBad b) := fun _ => ⟨_, _, rfl, by simp [tableMatch]⟩

theorem txIdle : Statement .txIdle := fun _ => ⟨_, _, rfl, by decide⟩

theorem txSendStart : Statement .txSendStart := fun _ => ⟨_, _, rfl, by decide⟩

theorem txSendLength : Statement .txSendLength := fun _ => ⟨_, _, rfl, by decide⟩

theorem txSendPayload : Statement .txSendPayload := fun _ => ⟨_, _, rfl, by decide⟩

theorem txSendChecksum : Statement .txSendChecksum := fun _ => ⟨_, _, rfl, by decide⟩

theorem txSendEnd : Statement .txSendEnd := fun _ => ⟨_, _, rfl, by decide⟩

theorem txAwaitAckAck : Statement .txAwaitAckAck := fun _ => ⟨_, _, rfl, by decide⟩

theorem txAwaitAckTimeout : Statement .txAwaitAckTimeout := fun _ => ⟨_, _, rfl, by decide⟩

theorem txAwaitAckWait : Statement .txAwaitAckWait := fun _ => ⟨_, _, rfl, by decide⟩

theorem rxStep : Statement .rxStep := fun _ => ⟨_, _, rfl, by decide⟩

theorem rxAckWrite : Statement .rxAckWrite := fun _ => ⟨_, _, rfl, by decide⟩

theorem rxNotStepped : Statement .rxNotStepped := fun _ => ⟨_, _, rfl, by decide⟩

theorem schedHandoff : Statement .schedHandoff := fun _ => ⟨_, _, rfl, by decide⟩

end Sys2Proof.Laws.TableRow
end

