-- ==== Sys2Proof/Laws/Rows.lean ====
section
/-! SUPPORT. What every row can do, said once: an inversion of `exec` over all 33 rows (`RowEffect`), which
a statement about every row cites instead of unfolding the meanings; and what `hostView` shows of `rx_buf`. -/

namespace Sys2Proof.Machine

/-! ## What the host reads -/

@[simp] theorem hostView_rxBuf_length (s : State) : (hostView s).rxBuf.length = s.rxLen.toNat := by
  simp [hostView]

theorem hostView_rxBuf_getElem? {s : State} {i : Nat} (h : i < s.rxLen.toNat) :
    (hostView s).rxBuf[i]? = some (hostByte s i) := by
  simp [hostView, h]

theorem hostByte_written {s : State} {i : Nat} (h : i < s.rxWritten) : hostByte s i = s.rxBuf.read i :=
  if_pos h

theorem hostByte_unwritten {s : State} {i : Nat} (h : s.rxWritten ≤ i) : hostByte s i = none :=
  if_neg (by omega)

/-! ## The shared steps inside a row -/

/-- A run of decoder steps writes decoder registers only (R100). -/
theorem decodeBytes_frame {bs : List Byte} {s t : State} {rs : List DecResult}
    (h : decodeBytes bs s = .next (t, rs)) :
    t = { s with
      decState := t.decState, rxLen := t.rxLen, rxCount := t.rxCount, rxChk := t.rxChk, rxBuf := t.rxBuf
      delivered := t.delivered, rxWritten := t.rxWritten } := by
  induction bs generalizing s t rs with
  | nil => simp [decodeBytes] at h; simp [← h.1]
  | cons b bs ih =>
    simp only [decodeBytes, andThen_eq_next] at h
    obtain ⟨⟨s1, r⟩, h1, ⟨s2, rs'⟩, h2, h3⟩ := h
    simp at h3
    obtain ⟨rfl, rfl⟩ := h3
    rw [ih h2, decodeByte_frame h1]

/-- Part (3) of a tick (R130 to R132): what it leaves alone, when it raises `ack_out`, what it leaves in
the slot, and that it does nothing when the receiver is not stepped. -/
theorem receiverPart_cases {rxEn : Bool} {s t : State} {r : RxResult} {ackOut : Bool}
    (h : receiverPart rxEn s = .next (t, r, ackOut)) :
    ReceiverFrame s t ∧
    (ackOut = true ↔ ∃ bs n, r = .decoded (.ok bs n)) ∧
    (ackOut = true → t.channel = some Config.ack) ∧
    (rxEn = true → ackOut = false → t.channel = none) ∧
    (rxEn = false → t = s ∧ r = .notStepped ∧ ackOut = false) := by
  cases rxEn with
  | false =>
    simp [receiverPart, receiverSkipped] at h
    obtain ⟨rfl, rfl, rfl⟩ := h
    exact ⟨by constructor <;> rfl, by simp, by simp, by simp, by simp⟩
  | true =>
    simp only [receiverPart, if_true] at h
    obtain ⟨h1, h2⟩ := receiverStep_channel h
    refine ⟨receiverStep_frameFields h, h2, ?_, ?_, by simp⟩ <;> intros <;> simp_all

theorem handoff_cases (s : State) :
    (s.channel = some Config.ack ∧ handoff s = { s with ackReceived := true, channel := none }) ∨
    (s.channel ≠ some Config.ack ∧ handoff s = s) := by
  unfold handoff
  split
  · next h => exact .inl ⟨h, rfl⟩
  · next h => exact .inr ⟨h, rfl⟩

/-- A TICK that goes on is its four parts (R140), with the handoff's test already decided (R143). -/
theorem execTick_cases {rxEn : Bool} {s t : State} (h : exec (.tick rxEn) s = .next t) :
    ∃ s1 s2 tx rx ackOut, transmitterStep (tickIncrement s) = .next (s1, tx) ∧
      receiverPart rxEn s1 = .next (s2, rx, ackOut) ∧
      t = if ackOut then { s2 with ackReceived := true, channel := none, result := .tick tx rx }
        else { s2 with result := .tick tx rx } := by
  simp only [exec, execTick, report_eq_next] at h
  obtain ⟨u, ⟨tx, rx⟩, h, rfl⟩ := h
  obtain ⟨s1, s2, a, h1, h2, rfl⟩ := tickBody_cases h
  refine ⟨s1, s2, tx, rx, a, h1, h2, ?_⟩
  have := (receiverPart_cases h2).2.2.1
  cases a with
  | false => rfl
  | true => simp [State.withResult, tickResult, handoff, this rfl, chClear]

/-! ## The rows -/

/-- A row of the decoder's table that goes on is the decoder step on its byte, in a state that selects
it. -/
theorem exec_decRow {i : Instr} {s t : State} {d : DecState} {c : Byte}
    (hi : i.inSpace (.decByte d c) = true) (h : exec i s = .next t) :
    i.inSpace (decSpace s) = true ∧
    ∃ b u r, encode i = [b] ∧ decodeByte b s = .next (u, r) ∧ t = u.withResult (.decoder r) := by
  cases i <;> simp [Instr.inSpace] at hi <;>
    simp only [exec, execDecStartStx, execDecStartSkip, execDecLenZero, execDecLenNonzero, execDecPayload,
      execDecChkMatch, execDecChkMismatch, execDecEndEtx, execDecEndBad, whenSelected_eq_next,
      report_eq_next, Bool.and_eq_true, beq_iff_eq, bne_iff_ne, ne_eq] at h <;>
    obtain ⟨hs, u, r, h, rfl⟩ := h <;>
    refine ⟨by simp [Instr.inSpace, decSpace, hs], _, u, r, rfl, ?_, rfl⟩ <;> simp [decodeByte, hs, h]

/-- A row of the transmitter's table that goes on is the transmitter step, and the row that the state
selects. -/
theorem exec_txRow {i : Instr} {s t : State} {a d : Bool} (hi : i.inSpace (.txStep a d) = true)
    (h : exec i s = .next t) :
    i = selectedTxRow s ∧
    ∃ u r, transmitterStep s = .next (u, r) ∧ t = u.withResult (.transmitter r) := by
  cases i <;> simp [Instr.inSpace] at hi <;>
    simp only [exec, execTxIdle, execTxSendStart, execTxSendLength, execTxSendPayload, execTxSendChecksum,
      execTxSendEnd, execTxAwaitAckAck, execTxAwaitAckTimeout, execTxAwaitAckWait, whenSelected_eq_next,
      report_eq_next, Bool.and_eq_true, beq_iff_eq, Bool.not_eq_true'] at h <;>
    obtain ⟨hs, u, r, h, rfl⟩ := h <;>
    refine ⟨by simp [selectedTxRow, txRow, hs], u, r, ?_, rfl⟩ <;> simp [transmitterStep, hs, h]

/-- The whole effect of a row that answers a next state. -/
inductive RowEffect (i : Instr) (s t : State) : Prop
  /-- DECODE_STEP, STX, ETX and the DEC rows: a decoder step. -/
  | decoder (b : Byte) (u : State) (r : DecResult)
      (row : i.inSpace (decSpace s) = true ∧ encode i = [b] ∨ i = .decodeStep b ∨
        (i = .stx ∧ b = Config.stx) ∨ (i = .etx ∧ b = Config.etx))
      (run : decodeByte b s = .next (u, r)) (next : t = u.withResult (.decoder r))
  /-- FRAME: a decoder step on each of its bytes. -/
  | frame (p : Payload) (u : State) (rs : List DecResult) (row : i = .frame p)
      (run : decodeBytes (frameBytes p) s = .next (u, rs))
      (next : t = u.withResult (.decoder (lastResult rs)))
  /-- The TX rows: a transmitter step. -/
  | transmitter (u : State) (r : TxResult) (row : i = selectedTxRow s)
      (run : transmitterStep s = .next (u, r)) (next : t = u.withResult (.transmitter r))
  /-- RX.STEP: a receiver step. -/
  | receiver (u : State) (r : RxResult) (ackOut : Bool) (row : i = .rxStep)
      (run : receiverStep s = .next (u, r, ackOut)) (next : t = u.withResult (.receiver r ackOut))
  /-- TICK: its parts. -/
  | tick (rxEn : Bool) (s1 s2 : State) (tx : TxResult) (rx : RxResult) (ackOut : Bool)
      (row : i = .tick rxEn) (transmitter : transmitterStep (tickIncrement s) = .next (s1, tx))
      (receiver : receiverPart rxEn s1 = .next (s2, rx, ackOut))
      (next : t = if ackOut then { s2 with ackReceived := true, channel := none, result := .tick tx rx }
        else { s2 with result := .tick tx rx })
  /-- START_SEND accepted. -/
  | start (p : Payload) (row : i = .startSend p) (idle : s.txPhase = .idle)
      (next : t = (startAccepted p s).1.withResult (.start .accepted))
  /-- The rows that only return: START_SEND during a session, CHECKSUM, ENCODE_FRAME, RX.NOTSTEPPED. -/
  | returns (r : OpResult)
      (row : (∃ p, i = .startSend p ∧ s.txPhase ≠ .idle) ∨ (∃ p, i = .startSendBusy p) ∨
        (∃ bs, i = .checksum bs) ∨ (∃ p, i = .encodeFrame p) ∨ i = .rxNotStepped)
      (quiet : ∀ x, r ≠ .transmitter x) (next : t = s.withResult r)
  /-- RESET. -/
  | reset (row : i = .reset) (next : t = resetState s)
  /-- ACK. -/
  | ack (row : i = .ack) (next : t = { s with ackReceived := true, channel := none, result := .none })
  /-- RX.ACKWRITE. -/
  | ackWrite (bs : List Byte) (n : Byte) (row : i = .rxAckWrite)
      (next : t = (chWrite Config.ack s).withResult (.receiver (.decoded (.ok bs n)) true))
  /-- SCHED.HANDOFF. -/
  | handoff (row : i = .schedHandoff) (next : t = (handoff s).withResult .none)

/-- Every row that answers a next state has one of these effects. -/
theorem exec_effect {i : Instr} {s t : State} (h : exec i s = .next t) : RowEffect i s t := by
  have dec : ∀ d c, i.inSpace (.decByte d c) = true → RowEffect i s t := fun d c hi => by
    obtain ⟨hs, b, u, r, he, hr, ht⟩ := exec_decRow hi h
    exact .decoder b u r (.inl ⟨hs, he⟩) hr ht
  have tx : ∀ a d, i.inSpace (.txStep a d) = true → RowEffect i s t := fun a d hi => by
    obtain ⟨hs, u, r, hr, ht⟩ := exec_txRow hi h
    exact .transmitter u r hs hr ht
  cases i
  case reset => simp only [exec, execReset, Host.Outcome.next.injEq] at h; exact .reset rfl h.symm
  case startSend p =>
    by_cases hp : s.txPhase = .idle
    · simp only [exec, execStartSend, startSend, sessionIdle, hp, beq_self_eq_true, if_true] at h
      exact .start p rfl hp (by simpa [startAccepted] using h.symm)
    · simp [exec, execStartSend, startSend, sessionIdle, hp, startBusy] at h
      exact .returns _ (.inl ⟨p, rfl, hp⟩) (by simp) h.symm
  case startSendBusy p =>
    simp only [exec, execStartSendBusy, whenSelected_eq_next, startBusy, report_next] at h
    exact .returns (.start .busy) (.inr (.inl ⟨p, rfl⟩)) (by simp) (by simpa using h.2.symm)
  case tick rxEn =>
    obtain ⟨s1, s2, tx, rx, a, h1, h2, h3⟩ := execTick_cases h
    exact .tick rxEn s1 s2 tx rx a rfl h1 h2 h3
  case decodeStep b =>
    simp only [exec, execDecodeStep, report_eq_next] at h
    obtain ⟨u, r, h, rfl⟩ := h
    exact .decoder b u r (.inr (.inl rfl)) h rfl
  case checksum bs => simp [exec, execChecksum] at h; exact .returns _ (by simp) (by simp) h.symm
  case encodeFrame p => simp [exec, execEncodeFrame] at h; exact .returns _ (by simp) (by simp) h.symm
  case stx =>
    simp only [exec, execStx, report_eq_next] at h
    obtain ⟨u, r, h, rfl⟩ := h
    exact .decoder _ u r (by simp) h rfl
  case etx =>
    simp only [exec, execEtx, report_eq_next] at h
    obtain ⟨u, r, h, rfl⟩ := h
    exact .decoder _ u r (by simp) h rfl
  case ack =>
    simp [exec, execAck, Machine.ackWrite, handoff_ackWrite, State.withResult] at h
    exact .ack rfl h.symm
  case frame p =>
    simp only [exec, execFrame, report_eq_next, wireFrame, andThen_eq_next] at h
    obtain ⟨u, r, ⟨⟨u', rs⟩, h, h2⟩, rfl⟩ := h
    simp at h2
    obtain ⟨rfl, rfl⟩ := h2
    exact .frame p u' rs rfl h rfl
  case decStartStx => exact dec .awaitStart 0#8 rfl
  case decStartSkip b =>
    simp [exec, execDecStartSkip, whenSelected_eq_next] at h
    exact dec .awaitStart 0#8 (by simp [Instr.inSpace, h.1])
  case decLenZero => exact dec .awaitLength 0#8 rfl
  case decLenNonzero b =>
    simp [exec, execDecLenNonzero, whenSelected_eq_next] at h
    exact dec .awaitLength 0#8 (by simp [Instr.inSpace, h.1])
  case decPayload b => exact dec .awaitPayload 0#8 rfl
  case decChkMatch b => exact dec .awaitChecksum b (by simp [Instr.inSpace])
  case decChkMismatch b =>
    simp [exec, execDecChkMismatch, whenSelected_eq_next] at h
    exact dec .awaitChecksum s.rxChk (by simp [Instr.inSpace, h.1])
  case decEndEtx => exact dec .awaitEnd 0#8 rfl
  case decEndBad b =>
    simp [exec, execDecEndBad, whenSelected_eq_next] at h
    exact dec .awaitEnd 0#8 (by simp [Instr.inSpace, h.1])
  case txIdle => exact tx false false rfl
  case txSendStart => exact tx false false rfl
  case txSendLength => exact tx false false rfl
  case txSendPayload => exact tx false false rfl
  case txSendChecksum => exact tx false false rfl
  case txSendEnd => exact tx false false rfl
  case txAwaitAckAck => exact tx true false rfl
  case txAwaitAckTimeout => exact tx false true rfl
  case txAwaitAckWait => exact tx false false rfl
  case rxStep =>
    simp only [exec, execRxStep, report_eq_next] at h
    obtain ⟨u, ⟨r, a⟩, h, rfl⟩ := h
    exact .receiver u r a rfl h rfl
  case rxAckWrite =>
    simp only [exec, execRxAckWrite] at h
    split at h
    · simp [afterDecode, Machine.ackWrite, receiverResult] at h
      exact .ackWrite _ _ rfl h.symm
    · simp at h
  case rxNotStepped =>
    simp [exec, execRxNotStepped, receiverSkipped, receiverResult] at h
    exact .returns _ (by simp) (by simp) h.symm
  case schedHandoff =>
    simp [exec, execSchedHandoff, whenSelected_eq_next] at h
    exact .handoff rfl h.2.symm

end Sys2Proof.Machine
end

