-- ==== Sys2Proof/Tests/Slice0.lean ====
section
/-! SUPPORT. The model's own tests: the WellFormed smoke, a word of the spec's bits for every row, single
operations against 95_test_vectors.md, and for each obligation with hypotheses a state and operands that
meet them. Expected values are the spec's, copied by hand. -/

namespace Sys2Proof.Tests

open Sys2Proof Sys2Proof.Machine

/-! ## Helpers -/

/-- The outcome is a next state that passes `p`. -/
def nextAnd (o : Outcome State) (p : State → Bool) : Bool :=
  match o with
  | .next t => p t
  | .fault _ => false
  | .refused _ => false

/-- The outcome is the refusal `r`. -/
def refusedAs (o : Outcome State) (r : Refusal) : Bool :=
  match o with
  | .next _ => false
  | .fault _ => false
  | .refused q => q == r

/-- Decoding answers instruction `i` and leaves `rest`. -/
def decodesTo (sp : Space) (bytes : List Byte) (i : Instr) (rest : List Byte) : Bool :=
  match decodeIn sp bytes with
  | .ok r => r == (i, rest)
  | .error _ => false

/-- Decoding refuses with `e`. -/
def decodeRefuses (sp : Space) (bytes : List Byte) (e : DecodeError) : Bool :=
  match decodeIn sp bytes with
  | .ok _ => false
  | .error e' => e' == e

/-- The payload of doc00's session scenario (S7). -/
def dead : Payload := ⟨[0xDE#8, 0xAD#8], by decide⟩

def emptyPayload : Payload := ⟨[], by decide⟩

/-- The payload of program P4's first session. -/
def one : Payload := ⟨[0x10#8], by decide⟩

/-- Reset with the decoder put at a place in a frame. -/
def decoderAt (d : DecState) (len count chk : Byte) (buf : Memory) : State :=
  { State.reset with decState := d, rxLen := len, rxCount := count, rxChk := chk, rxBuf := buf }

/-- Reset with the transmitter put at a phase of the session of `dead`, at tick 6. -/
def sessionAt (p : TxPhase) (idx : Byte) : State :=
  { State.reset with
    txPhase := p, txIdx := idx, txLen := 2#8, txChk := 0x73#8, txBuf := [(0, 0xDE#8), (1, 0xAD#8)], tick := 6 }

/-- `AwaitAck` with the deadline of the example of R118 to R120. -/
def awaiting (tick : Nat) (ack : Bool) : State :=
  { sessionAt .awaitAck 2#8 with deadline := 106, tick := tick, ackReceived := ack }

/-- The decoder one byte before the end of the frame of `dead`. -/
def beforeEtx : State :=
  { decoderAt .awaitEnd 2#8 2#8 0x73#8 [(0, 0xDE#8), (1, 0xAD#8)] with rxWritten := 2 }

/-! ## WellFormed: one ill-formed term for each check -/

theorem test_wf_skip_is_not_stx : (Instr.decStartSkip 0x02#8).wf = false := by decide
theorem test_wf_length_is_not_zero : (Instr.decLenNonzero 0x00#8).wf = false := by decide
theorem test_wf_bad_end_is_not_etx : (Instr.decEndBad 0x03#8).wf = false := by decide
theorem test_wf_other_bytes_pass :
    (Instr.decStartSkip 0x03#8).wf = true ∧ (Instr.decLenNonzero 0xFF#8).wf = true ∧
    (Instr.decEndBad 0x02#8).wf = true := by decide

/-! ## Decoding: a word for every row, its bits from 30_encoding.md R60, R66, R70 and R72 -/

theorem test_decode_RESET : decodesTo (.hostOp true) [0b00000000#8] .reset [] = true := by decide
theorem test_decode_START_SEND :
    decodesTo (.hostOp true) [0b00000001#8, 0x02#8, 0xDE#8, 0xAD#8] (.startSend dead) [] = true := by decide
theorem test_decode_START_SEND_BUSY :
    decodesTo (.hostOp false) [0b00000001#8, 0x02#8, 0xDE#8, 0xAD#8] (.startSendBusy dead) [] = true := by decide
theorem test_decode_TICK :
    decodesTo (.hostOp true) [0b00000010#8, 0x01#8, 0x00#8] (.tick true) [0x00#8] = true ∧
    decodesTo (.hostOp false) [0b00000010#8, 0x00#8] (.tick false) [] = true := by decide
theorem test_decode_DECODE_STEP : decodesTo (.hostOp true) [0b00000011#8, 0x54#8] (.decodeStep 0x54#8) [] = true := by
  decide
theorem test_decode_CHECKSUM :
    decodesTo (.hostOp true) [0b00000100#8, 0x01#8, 0xDE#8, 0x01#8, 0xAD#8, 0x00#8] (.checksum [0xDE#8, 0xAD#8]) [] =
      true := by decide
theorem test_decode_ENCODE_FRAME :
    decodesTo (.hostOp true) [0b00000101#8, 0x02#8, 0xDE#8, 0xAD#8] (.encodeFrame dead) [] = true := by decide
theorem test_decode_no_operation :
    decodeRefuses (.hostOp true) [0b00000110#8] (.notAnOperation 6) = true ∧
    decodeRefuses (.hostOp true) [0b00000111#8] (.notAnOperation 7) = true ∧
    decodeRefuses (.hostOp true) [0b00001000#8] .highBits = true := by decide
theorem test_decode_STX : decodesTo .wireByte [0b00000010#8] .stx [] = true := by decide
theorem test_decode_ETX : decodesTo .wireByte [0b00000011#8] .etx [] = true := by decide
theorem test_decode_ACK : decodesTo .wireByte [0b00000110#8] .ack [] = true := by decide
theorem test_decode_no_control_byte : decodeRefuses .wireByte [0x04#8] (.notAControlByte 0x04#8) = true := by decide
theorem test_decode_FRAME :
    decodesTo .wireFrame [0x02#8, 0x02#8, 0xDE#8, 0xAD#8, 0x73#8, 0x03#8] (.frame dead) [] = true := by decide
theorem test_decode_FRAME_refuses :
    decodeRefuses .wireFrame [0x02#8, 0x02#8, 0xDE#8, 0xAD#8, 0x72#8, 0x03#8] (.wrongChecksum 0x72#8) = true ∧
    decodeRefuses .wireFrame [0x02#8, 0x02#8, 0xDE#8, 0xAD#8, 0x73#8, 0x02#8] (.notEtx 0x02#8) = true := by decide
theorem test_decode_DEC_START :
    decodesTo (.decByte .awaitStart 0x00#8) [0x02#8] .decStartStx [] = true ∧
    decodesTo (.decByte .awaitStart 0x00#8) [0x03#8] (.decStartSkip 0x03#8) [] = true := by decide
theorem test_decode_DEC_LEN :
    decodesTo (.decByte .awaitLength 0x00#8) [0x00#8] .decLenZero [] = true ∧
    decodesTo (.decByte .awaitLength 0x00#8) [0x02#8] (.decLenNonzero 0x02#8) [] = true := by decide
theorem test_decode_DEC_PAYLOAD :
    decodesTo (.decByte .awaitPayload 0x00#8) [0x02#8] (.decPayload 0x02#8) [] = true := by decide
theorem test_decode_DEC_CHK :
    decodesTo (.decByte .awaitChecksum 0x73#8) [0x73#8] (.decChkMatch 0x73#8) [] = true ∧
    decodesTo (.decByte .awaitChecksum 0x73#8) [0x02#8] (.decChkMismatch 0x02#8) [] = true := by decide
theorem test_decode_DEC_END :
    decodesTo (.decByte .awaitEnd 0x73#8) [0x03#8] .decEndEtx [] = true ∧
    decodesTo (.decByte .awaitEnd 0x73#8) [0x04#8] (.decEndBad 0x04#8) [] = true := by decide
theorem test_decode_TX_send :
    decodesTo (.txStep false false) [0b00000000#8] .txIdle [] = true ∧
    decodesTo (.txStep false false) [0b00000001#8] .txSendStart [] = true ∧
    decodesTo (.txStep false false) [0b00000010#8] .txSendLength [] = true ∧
    decodesTo (.txStep false false) [0b00000011#8] .txSendPayload [] = true ∧
    decodesTo (.txStep false false) [0b00000100#8] .txSendChecksum [] = true ∧
    decodesTo (.txStep false false) [0b00000101#8] .txSendEnd [] = true ∧
    decodeRefuses (.txStep false false) [0b00000111#8] (.noRow 0x07#8) = true := by decide
theorem test_decode_TX_AWAITACK :
    decodesTo (.txStep true true) [0b00000110#8] .txAwaitAckAck [] = true ∧
    decodesTo (.txStep false true) [0b00000110#8] .txAwaitAckTimeout [] = true ∧
    decodesTo (.txStep false false) [0b00000110#8] .txAwaitAckWait [] = true := by decide
theorem test_decode_TICK_PART :
    decodesTo .rxEnable [0x01#8] .rxStep [] = true ∧ decodesTo .rxEnable [0x00#8] .rxNotStepped [] = true ∧
    decodesTo .decoderResult [0x01#8] .rxAckWrite [] = true ∧ decodesTo .ackOut [0x01#8] .schedHandoff [] = true := by
  decide

/-- The host's table words of the six host operations. -/
theorem test_table_words :
    decodeTableWord 8 0 = some .reset ∧ decodeTableWord 8 1 = some (.startSend emptyPayload) ∧
    decodeTableWord 8 2 = some (.tick false) ∧ decodeTableWord 8 3 = some (.decodeStep 0x00#8) ∧
    decodeTableWord 8 4 = some (.checksum []) ∧ decodeTableWord 8 5 = some (.encodeFrame emptyPayload) ∧
    decodeTableWord 8 6 = none := by decide

/-- A table word as the first operation after reset: TICK. -/
theorem test_fetch_word_TICK :
    nextAnd (step (State.reset.withFetchWord 8 2)) (fun t => t.tick == 1 && t.port == []) = true := by decide

/-! ## Codec: vectors V1, V3, V6, V9, V12, V13, V16 -/

theorem test_CHECKSUM :
    nextAnd (exec (.checksum [0x0A#8, 0x0B#8, 0x0C#8, 0x0D#8]) State.reset) (·.result == .checksum 0x00#8) = true ∧
    nextAnd (exec (.checksum [0x02#8, 0x03#8, 0x06#8]) State.reset) (·.result == .checksum 0x07#8) = true := by decide
theorem test_ENCODE_FRAME :
    nextAnd (exec (.encodeFrame dead) State.reset)
      (·.result == .frame [0x02#8, 0x02#8, 0xDE#8, 0xAD#8, 0x73#8, 0x03#8]) = true ∧
    nextAnd (exec (.encodeFrame emptyPayload) State.reset) (·.result == .frame [0x02#8, 0x00#8, 0x00#8, 0x03#8]) = true := by
  decide

/-! ## Decoder: scenarios S5 and S6, examples of R91 to R98 -/

/-- R94's example: the byte that is equal to STX is data. -/
theorem test_DEC_PAYLOAD :
    nextAnd (exec (.decPayload 0x02#8) (decoderAt .awaitPayload 3#8 1#8 0x54#8 [(0, 0x54#8)])) (fun t =>
      t.rxBuf == [(0, 0x54#8), (1, 0x02#8)] && t.rxChk == 0x56#8 && t.rxCount == 2#8 && t.decState == .awaitPayload) =
      true := by decide
/-- The last index of the buffer, and the last count. -/
theorem test_DEC_PAYLOAD_last :
    nextAnd (exec (.decodeStep 0x06#8) (decoderAt .awaitPayload 255#8 254#8 0x00#8 [])) (fun t =>
      t.rxBuf == [(254, 0x06#8)] && t.rxCount == 255#8 && t.decState == .awaitChecksum) = true := by decide
theorem test_DEC_LEN :
    nextAnd (exec (.decodeStep 0x00#8) (decoderAt .awaitLength 0#8 0#8 0#8 [])) (·.decState == .awaitChecksum) = true ∧
    nextAnd (exec (.decodeStep 0x02#8) (decoderAt .awaitLength 0#8 0#8 0#8 []))
      (fun t => t.decState == .awaitPayload && t.rxLen == 2#8) = true := by decide
/-- S6: the wrong checksum 0x99 for "AB"; and an STX as the offending byte is consumed. -/
theorem test_DEC_CHK_MISMATCH :
    nextAnd (exec (.decodeStep 0x99#8) (decoderAt .awaitChecksum 2#8 2#8 0x03#8 [(0, 0x41#8), (1, 0x42#8)])) (fun t =>
      t.result == .decoder (.error .checksumMismatch) && t.decState == .awaitStart && t.rxLen == 2#8) = true ∧
    nextAnd (exec (.decChkMismatch 0x02#8) (decoderAt .awaitChecksum 2#8 2#8 0x03#8 []))
      (·.decState == .awaitStart) = true := by decide
theorem test_DEC_END :
    nextAnd (exec .decEndEtx beforeEtx) (·.result == .decoder (.ok [0xDE#8, 0xAD#8] 2#8)) = true ∧
    nextAnd (exec (.decEndBad 0x02#8) beforeEtx)
      (fun t => t.result == .decoder (.error .framingError) && t.decState == .awaitStart) = true := by decide
/-- DECODE_STEP writes no ACK. -/
theorem test_DECODE_STEP_no_ack :
    nextAnd (exec (.decodeStep 0x03#8) beforeEtx) (fun t => t.channel == none && t.ackReceived == false) = true := by
  decide

/-- R181: after an `Ok`, RESET, STX and the length 5, no byte of the old frame shows; it showed before. -/
theorem test_payload_shows_until_reset :
    nextAnd (exec (.decodeStep 0x03#8) beforeEtx) (fun t =>
      (hostView t).payload == some [0xDE#8, 0xAD#8] &&
      nextAnd (andThen (exec .reset t) fun u => runDecodeSteps [0x02#8, 0x05#8] u)
        (fun u => u.rxLen == 5#8 && u.rxBuf == t.rxBuf && (hostView u).payload == none &&
          (hostView u).rxBuf == [none, none, none, none, none])) = true := by decide
/-- R30: `rx_buf[0..rx_len)` is read in `AwaitEnd` and after an `Error` too, where it is no payload (R163). -/
theorem test_rx_buf_reads_in_every_state :
    (hostView beforeEtx).rxBuf = [some 0xDE#8, some 0xAD#8] ∧ (hostView beforeEtx).payload = none ∧
    nextAnd (exec (.decodeStep 0x04#8) beforeEtx) (fun t =>
      t.result == .decoder (.error .framingError) && (hostView t).rxBuf == [some 0xDE#8, some 0xAD#8] &&
      (hostView t).payload == none) = true := by decide
/-- In the middle of the next frame: its first byte, the earlier frame's second, and one never written. -/
theorem test_rx_buf_reads_in_the_middle :
    nextAnd (runDecodeSteps [0x03#8, 0x02#8, 0x03#8, 0x41#8] beforeEtx) (fun t =>
      (hostView t).rxBuf == [some 0x41#8, some 0xAD#8, none] && (hostView t).payload == none) = true := by decide

/-! ## Transmitter: examples of R110 to R120 -/

theorem test_START_SEND :
    nextAnd (exec (.startSend dead) State.reset) (fun t => t.txLen == 2#8 && t.txChk == 0x73#8 &&
      t.txPhase == .sendStart && t.retxCount == 0 && t.txBuf == [(0, 0xDE#8), (1, 0xAD#8)] && t.channel == none) =
      true := by decide
theorem test_START_SEND_BUSY :
    nextAnd (exec (.startSend one) (sessionAt .sendLength 0#8))
      (fun t => t.txLen == 2#8 && t.result == .start .busy) = true := by decide
theorem test_TX_SENDLENGTH_empty :
    nextAnd (exec .txSendLength { sessionAt .sendLength 7#8 with txLen := 0#8 })
      (fun t => t.channel == some 0x00#8 && t.txPhase == .sendChecksum && t.txIdx == 7#8) = true := by decide
theorem test_TX_SENDPAYLOAD :
    nextAnd (exec .txSendPayload (sessionAt .sendPayload 1#8))
      (fun t => t.channel == some 0xAD#8 && t.txIdx == 2#8 && t.txPhase == .sendChecksum) = true := by decide
theorem test_TX_SENDCHECKSUM :
    nextAnd (exec .txSendChecksum (sessionAt .sendChecksum 2#8))
      (fun t => t.channel == some 0x73#8 && t.txPhase == .sendEnd) = true := by decide
theorem test_TX_SENDEND :
    nextAnd (exec .txSendEnd (sessionAt .sendEnd 2#8))
      (fun t => t.channel == some 0x03#8 && t.deadline == 106 && t.txPhase == .awaitAck) = true := by decide
/-- The acknowledgment wins at the deadline (R118). -/
theorem test_TX_AWAITACK_ACK :
    nextAnd (exec .txAwaitAckAck (awaiting 106 true))
      (fun t => t.result == .transmitter .sent && t.txPhase == .idle && t.channel == none && t.retxCount == 0) = true := by
  decide
theorem test_TX_AWAITACK_TIMEOUT :
    nextAnd (exec .txAwaitAckTimeout (awaiting 106 false)) (fun t =>
      t.retxCount == 1 && t.channel == some 0x02#8 && t.txPhase == .sendLength && t.deadline == 106) = true ∧
    refusedAs (exec .txAwaitAckTimeout (awaiting 105 false)) .rowNotSelected = true := by decide
theorem test_TX_AWAITACK_WAIT :
    nextAnd (exec .txAwaitAckWait (awaiting 105 false)) (· == { awaiting 105 false with result := .transmitter .pending }) =
      true := by decide

/-! ## Receiver and scheduler: R130, R140's example, R143 -/

theorem test_RX_STEP :
    nextAnd (exec .rxStep { State.reset with channel := some 0x02#8 }) (fun t =>
      t.channel == none && t.decState == .awaitLength && t.result == .receiver (.decoded .inProgress) false) = true ∧
    nextAnd (exec .rxStep { beforeEtx with channel := some 0x03#8 }) (fun t =>
      t.channel == some 0x06#8 && t.result == .receiver (.decoded (.ok [0xDE#8, 0xAD#8] 2#8)) true) = true := by decide
/-- The sixth TICK of program P1. -/
theorem test_TICK_example :
    nextAnd (exec (.tick true) { sessionAt .sendEnd 2#8 with
        tick := 5, decState := .awaitEnd, rxLen := 2#8, rxCount := 2#8, rxChk := 0x73#8,
        rxBuf := [(0, 0xDE#8), (1, 0xAD#8)] }) (fun t =>
      t.tick == 6 && t.deadline == 106 && t.txPhase == .awaitAck && t.ackReceived && t.channel == none &&
        t.result == .tick .pending (.decoded (.ok [0xDE#8, 0xAD#8] 2#8))) = true := by decide
/-- A 0x06 that the transmitter wrote is no acknowledgment (R143). -/
theorem test_TICK_own_06_is_no_ack :
    nextAnd (exec (.tick false) { sessionAt .sendPayload 0#8 with txBuf := [(0, 0x06#8), (1, 0x75#8)] })
      (fun t => t.channel == some 0x06#8 && t.ackReceived == false) = true := by decide
theorem test_SCHED_HANDOFF :
    nextAnd (exec .schedHandoff { State.reset with channel := some 0x06#8, result := .receiver (.decoded (.ok [] 0#8)) true })
      (fun t => t.ackReceived && t.channel == none) = true ∧
    refusedAs (exec .schedHandoff { State.reset with channel := some 0x06#8 }) .rowNotSelected = true := by decide
theorem test_RESET :
    nextAnd (exec .reset { awaiting 50 true with channel := some 0x03#8 }) (fun t =>
      t == { State.reset with txBuf := [(0, 0xDE#8), (1, 0xAD#8)] }) = true := by decide
/-- A frame fed in `AwaitEnd`: its STX is a framing error, and the rest is discarded (R98, R92). -/
theorem test_FRAME_out_of_step :
    nextAnd (exec (.frame one) beforeEtx) (fun t =>
      t.result == .decoder .inProgress && t.decState == .awaitStart && t.rxLen == 2#8 && t.rxBuf == beforeEtx.rxBuf) =
      true := by decide
theorem test_FRAME :
    nextAnd (exec (.frame one) State.reset) (fun t => t.result == .decoder (.ok [0x10#8] 1#8) && t.rxChk == 0x10#8) = true := by
  decide

/-! ## Witnesses: for each obligation with hypotheses, a state and operands that meet them -/

/-- ResetOperation and StartSendBusy, the clause on what ends a session. -/
theorem witness_OnlyResetEndsASession :
    Instr.inSpace (hostSpace (awaiting 50 false)) .reset = true ∧ (awaiting 50 false).txPhase ≠ .idle ∧
    (awaiting 50 false).ackReceived = false ∧ nextAnd (exec .reset (awaiting 50 false)) (·.txPhase == .idle) = true := by
  decide

/-- A TICK that times out goes on: the hypothesis of TimeoutIsFixed, TickCounterWriters,
RetxCounterWriters, DeadlineWriters, AckMarkWriters, SessionDataIsStable, RxBufferAccess. -/
theorem witness_row_goes_on_TICK :
    exec (.tick false) (awaiting 105 false) = .next { awaiting 106 false with
      retxCount := 1, channel := some 0x02#8, txPhase := .sendLength, result := .tick .pending .notStepped } := by rfl
theorem witness_DeadlineWriters :
    nextAnd (exec (.tick false) (sessionAt .sendEnd 2#8)) (·.deadline == 107) = true ∧
    (sessionAt .sendEnd 2#8).txPhase ≠ .awaitAck := by decide
/-- DeadlineWriters, second clause: outside `AwaitAck`, in `SendEnd` and in another phase. -/
theorem witness_deadline_does_not_matter :
    nextAnd (exec (selectedTxRow (sessionAt .sendEnd 2#8)) (sessionAt .sendEnd 2#8)) (·.deadline == 106) = true ∧
    (sessionAt .sendLength 0#8).txPhase ≠ .awaitAck ∧
    nextAnd (exec (selectedTxRow (sessionAt .sendLength 0#8)) (sessionAt .sendLength 0#8)) (·.deadline == 0) = true := by
  decide
theorem witness_row_goes_on_RESET : exec .reset (awaiting 105 false) = .next (resetState (awaiting 105 false)) := by rfl
theorem witness_row_goes_on_START_SEND :
    nextAnd (exec (.startSend dead) State.reset) (fun t => t.txBuf.slice 2 == some [0xDE#8, 0xAD#8]) = true ∧
    State.reset.txPhase = .idle ∧ (sessionAt .sendEnd 2#8).txPhase ≠ .idle ∧
    nextAnd (exec (.startSend dead) (sessionAt .sendEnd 2#8)) (fun t => t.txPhase == .sendEnd) = true := by decide
theorem witness_row_goes_on_SCHED_HANDOFF :
    nextAnd (exec .schedHandoff { State.reset with channel := some 0x06#8, result := .receiver (.decoded (.ok [] 0#8)) true })
      (·.ackReceived) = true := by decide
theorem witness_RxBufferAccess :
    (1 ≠ (decoderAt .awaitPayload 3#8 0#8 0#8 []).rxCount.toNat ∨ beforeEtx.decState ≠ .awaitPayload) ∧
    nextAnd (exec (.decPayload 0x54#8) (decoderAt .awaitPayload 3#8 0#8 0#8 [])) (fun t => t.rxBuf.read 1 == none) = true := by
  decide
/-- RxBufferAccess, the clauses on what the host sees. -/
theorem witness_RxBufferAccess_host :
    Instr.inSpace (hostSpace beforeEtx) (.decodeStep 0x03#8) = true ∧
    nextAnd (exec (.decodeStep 0x03#8) beforeEtx) (·.delivered) = true ∧
    DecoderInv { beforeEtx with decState := .awaitStart, delivered := true } ∧ DecoderInv beforeEtx ∧
    beforeEtx.delivered = false := by decide
theorem witness_RxBufferAccess_unspecified :
    SameSpecified { beforeEtx with decState := .awaitStart, delivered := true }
      { beforeEtx with decState := .awaitStart, delivered := true, rxBuf := [(0, 0xDE#8), (1, 0xAD#8), (2, 0x55#8)] } ∧
    Memory.slice [(0, 0xDE#8), (1, 0xAD#8), (2, 0x55#8)] beforeEtx.rxWritten = beforeEtx.rxBuf.slice beforeEtx.rxWritten :=
  ⟨⟨rfl, by decide, by decide⟩, by decide⟩
/-- RxBufferAccess, the host's bytes on both sides of the mark: with a value below it, with none from it on. -/
theorem witness_RxBufferAccess_bytes :
    DecoderInv { decoderAt .awaitPayload 3#8 1#8 0x41#8 [(0, 0x41#8), (1, 0xAD#8)] with rxWritten := 2 } ∧
    1 < 2 ∧ 2 ≤ 2 ∧ 2 < (3#8 : Byte).toNat := by decide
/-- RxBufferAccess, the mark's clause: a payload byte, and a row that leaves it. -/
theorem witness_RxBufferAccess_mark :
    nextAnd (exec (.decodeStep 0x54#8) (decoderAt .awaitPayload 3#8 0#8 0#8 [])) (·.rxWritten == 1) = true ∧
    nextAnd (exec .decEndEtx beforeEtx) (·.rxWritten == 2) = true ∧
    nextAnd (exec .reset beforeEtx) (·.rxWritten == 0) = true := by decide
/-- EtxDeliversThePayload, second clause: a TICK with the receiver, no session and an empty slot. -/
theorem witness_delivered_payload :
    nextAnd (exec (.tick true) { beforeEtx with decState := .awaitStart, delivered := true }) (fun t =>
      t.decState == .awaitStart && (hostView t).payload == some [0xDE#8, 0xAD#8]) = true := by decide
theorem witness_PortCodes :
    nextAnd (exec (.decodeStep 0x03#8) beforeEtx) (·.result == .decoder (.ok [0xDE#8, 0xAD#8] 2#8)) = true := by decide

theorem witness_DecodeOfEncode :
    (Instr.startSend dead).wf = true ∧ Instr.inSpace (.hostOp true) (.startSend dead) = true ∧
    (Instr.decChkMatch 0x73#8).wf = true ∧ Instr.inSpace (.decByte .awaitChecksum 0x73#8) (.decChkMatch 0x73#8) = true ∧
    Instr.inSpace (.txStep false true) .txAwaitAckTimeout = true ∧ Instr.inSpace .wireFrame (.frame dead) = true := by
  decide
theorem witness_EncodeOfDecode :
    decodesTo .wireFrame (frameBytes dead ++ [0x06#8]) (.frame dead) [0x06#8] = true := by decide
theorem witness_HostPortOperations :
    decodesTo (.hostOp false) [0x01#8, 0x00#8] (.startSendBusy emptyPayload) [] = true ∧
    ({ State.reset with port := [6#8, 0#8] } : State).port = 6#8 :: [0#8] ∧
    ({ State.reset with port := [7#8] } : State).port = 7#8 :: [] := by decide
theorem witness_StepRunsTheDecodedOperation :
    decodesTo (hostSpace State.reset) ({ State.reset with port := [2#8, 1#8, 0#8] } : State).port (.tick true) [0#8] = true ∧
    State.reset.port = [] ∧
    decodeRefuses (hostSpace State.reset) ({ State.reset with port := [2#8, 5#8] } : State).port (.notABit 5#8) = true := by
  decide
theorem witness_FetchWordRunsTheDecodedWord :
    State.reset.txPhase = .idle ∧ decodeTableWord 8 2 = some (.tick false) ∧
    decodeTableWord 16 0x0101 = some (.startSend ⟨[0x00#8], by decide⟩) := by decide
theorem witness_HostOperationsIgnoreTheModelsFields :
    nextAnd (exec (.startSend one) State.reset) (fun _ => true) = true ∧
    Instr.inSpace (hostSpace (awaiting 1 false)) (.startSendBusy one) = true ∧
    Instr.inSpace (hostSpace State.reset) (.startSend one) = true := by decide
theorem witness_ChecksumOperation :
    [0xDE#8, 0xAD#8].Perm [0xAD#8, 0xDE#8] ∧ (∀ b, ([0x44#8, 0x44#8] : List Byte).count b % 2 = 0) := by
  refine ⟨List.Perm.swap _ _ _, fun b => ?_⟩
  by_cases h : (0x44#8 : Byte) = b <;> simp [h]
theorem witness_EncodeFrameOperation :
    emptyPayload.bytes = [] ∧ (⟨[0x54#8, 0x44#8, 0x44#8], by decide⟩ : Payload).bytes = [0x54#8, 0x44#8, 0x44#8] := by
  decide

/-- The boundary bytes of `AwaitStart`: STX, its neighbours, ETX and ACK. -/
theorem witness_AwaitStartByte :
    State.reset.decState = .awaitStart ∧ (0x01#8 : Byte) ≠ 0x02#8 ∧ (0x03#8 : Byte) ≠ 0x02#8 ∧ (0xFF#8 : Byte) ≠ 0x02#8 := by
  decide
theorem witness_LengthByte :
    (decoderAt .awaitLength 0#8 0#8 0#8 []).decState = .awaitLength ∧ (1#8 : Byte) ≠ 0#8 ∧ (255#8 : Byte) ≠ 0#8 := by decide
theorem witness_PayloadByte :
    (decoderAt .awaitPayload 255#8 254#8 0#8 []).decState = .awaitPayload ∧ (254#8 : Byte).toNat < (255#8 : Byte).toNat ∧
    (decoderAt .awaitPayload 2#8 0#8 0#8 []).decState = .awaitPayload ∧ (0#8 : Byte).toNat < (2#8 : Byte).toNat := by decide
theorem witness_ChecksumByte :
    (decoderAt .awaitChecksum 2#8 2#8 0x73#8 []).decState = .awaitChecksum ∧
    (0x73#8 : Byte) = (decoderAt .awaitChecksum 2#8 2#8 0x73#8 []).rxChk ∧
    (0x72#8 : Byte) ≠ (decoderAt .awaitChecksum 2#8 2#8 0x73#8 []).rxChk := by decide
theorem witness_EtxDeliversThePayload :
    beforeEtx.decState = .awaitEnd ∧ beforeEtx.rxBuf.slice beforeEtx.rxLen.toNat = some [0xDE#8, 0xAD#8] ∧
    (decoderAt .awaitEnd 0#8 0#8 0#8 []).rxBuf.slice 0 = some [] := by decide
theorem witness_BadTerminator : beforeEtx.decState = .awaitEnd ∧ (0x02#8 : Byte) ≠ 0x03#8 ∧ (0x04#8 : Byte) ≠ 0x03#8 := by
  decide
theorem witness_DecodeStepIsTheSelectedRow :
    Instr.inSpace (decSpace beforeEtx) .decEndEtx = true ∧ encode .decEndEtx = [0x03#8] ∧ DecoderInv beforeEtx ∧
    nextAnd (exec (.decodeStep 0x03#8) beforeEtx) (fun _ => true) = true := by decide
theorem witness_DecoderResultContract :
    nextAnd (exec (.decodeStep 0x04#8) beforeEtx) (·.result == .decoder (.error .framingError)) = true := by decide
/-- FrameRoundTrip, ResyncAfterGarbage, CorruptedChecksumIsRejected, LossFreeSession. -/
theorem witness_awaitStart :
    State.reset.decState = .awaitStart ∧ Config.stx ∉ ([0xFF#8, 0x03#8, 0x06#8] : List Byte) ∧
    (0x99#8 : Byte) ≠ checksum dead.bytes ∧ State.reset.txPhase = .idle := by decide

theorem witness_StartSendAccepted : State.reset.txPhase = .idle := rfl
theorem witness_StartSendBusy : (sessionAt .sendStart 0#8).txPhase ≠ .idle := by decide
theorem witness_SendStartPhase :
    (sessionAt .sendStart 0#8).txPhase = .sendStart ∧
    nextAnd (exec (.startSend dead) State.reset) (·.txPhase == .sendStart) = true := by decide
theorem witness_SendLengthPhase :
    (sessionAt .sendLength 0#8).txPhase = .sendLength ∧ (sessionAt .sendLength 0#8).txLen ≠ 0#8 ∧
    ({ sessionAt .sendLength 0#8 with txLen := 0#8 } : State).txLen = 0#8 := by decide
theorem witness_SendPayloadPhase :
    (sessionAt .sendPayload 1#8).txPhase = .sendPayload ∧
    (sessionAt .sendPayload 1#8).txIdx.toNat < (sessionAt .sendPayload 1#8).txLen.toNat ∧
    (sessionAt .sendPayload 1#8).txBuf.read 1 = some 0xAD#8 ∧
    (254#8 : Byte).toNat < (255#8 : Byte).toNat := by decide
theorem witness_SendChecksumAndEndPhases :
    (sessionAt .sendChecksum 2#8).txPhase = .sendChecksum ∧ (sessionAt .sendEnd 2#8).txPhase = .sendEnd := by decide
theorem witness_AcknowledgmentEndsTheSession :
    (awaiting 106 true).txPhase = .awaitAck ∧ (awaiting 106 true).ackReceived = true := by decide
theorem witness_TimeoutRetransmits :
    (awaiting 106 false).txPhase = .awaitAck ∧ (awaiting 106 false).ackReceived = false ∧
    (awaiting 106 false).deadline ≤ (awaiting 106 false).tick ∧ (sessionAt .sendEnd 2#8).txPhase = .sendEnd ∧
    nextAnd (exec .txSendEnd (sessionAt .sendEnd 2#8)) (·.deadline == 106) = true ∧ (sessionAt .sendEnd 2#8).tick < 7 := by
  decide
theorem witness_WaitAndIdleWriteNothing :
    (awaiting 105 false).txPhase = .awaitAck ∧ (awaiting 105 false).ackReceived = false ∧
    (awaiting 105 false).tick < (awaiting 105 false).deadline ∧ State.reset.txPhase = .idle ∧
    nextAnd (exec .txAwaitAckAck (awaiting 105 true)) (·.result == .transmitter .sent) = true ∧
    nextAnd (exec (.tick true) (awaiting 105 true)) (·.result == .tick .sent .noByte) = true := by decide
theorem witness_TransmitterStepIsTheSelectedRow :
    Instr.inSpace (txSpace (awaiting 106 false)) .txAwaitAckTimeout = true ∧
    encode .txAwaitAckTimeout = [(awaiting 106 false).txPhase.ordinal.setWidth 8] := by decide
theorem witness_TransmitterIgnoresTheChannel :
    selectedTxRow (awaiting 105 false) = .txAwaitAckWait ∧
    nextAnd (exec .txAwaitAckWait { awaiting 105 false with channel := some 0x03#8 }) (·.channel == some 0x03#8) = true := by
  decide
theorem witness_UnselectedRowsAreRefused :
    Instr.inSpace (.decByte .awaitStart 0#8) .decStartStx = true ∧
    Instr.inSpace (decSpace beforeEtx) .decStartStx = false ∧
    Instr.inSpace (.txStep true false) .txAwaitAckAck = true ∧
    Instr.txAwaitAckAck ≠ selectedTxRow (awaiting 106 false) := by decide

theorem witness_ReceiverStep :
    State.reset.channel = none ∧
    nextAnd (exec (.decodeStep 0x03#8) beforeEtx) (·.result == .decoder (.ok [0xDE#8, 0xAD#8] 2#8)) = true ∧
    nextAnd (exec (.decodeStep 0x02#8) State.reset) (·.result == .decoder .inProgress) = true ∧
    DecoderInv { beforeEtx with channel := some 0x03#8 } := by decide
theorem witness_AcknowledgmentWrite :
    ({ State.reset with result := .decoder (.ok [] 0#8) } : State).result = .decoder (.ok [] 0#8) ∧
    nextAnd (exec .rxStep { beforeEtx with channel := some 0x03#8 })
      (·.result == .receiver (.decoded (.ok [0xDE#8, 0xAD#8] 2#8)) true) = true ∧
    nextAnd (exec .rxStep State.reset) (·.result == .receiver .noByte false) = true := by decide
theorem witness_Handoff :
    ({ State.reset with channel := some 0x06#8, result := .receiver .noByte true } : State).channel = some 0x06#8 ∧
    ({ State.reset with channel := some 0x03#8, result := .receiver .noByte true } : State).channel ≠ some 0x06#8 := by
  decide
/-- One byte before the ETX of the session of `dead`, both machines in step: before the sixth TICK of P1. -/
def lastTick : State :=
  { sessionAt .sendEnd 2#8 with
    tick := 5, decState := .awaitEnd, rxLen := 2#8, rxCount := 2#8, rxChk := 0x73#8,
    rxBuf := [(0, 0xDE#8), (1, 0xAD#8)] }

/-- TickIsItsParts: both parts of the one tick, from one state. The same tick meets the third
clause of TickCounterWriters. -/
theorem witness_TickIsItsParts :
    ∃ s2 s3, exec (selectedTxRow { lastTick with tick := lastTick.tick + 1 }) { lastTick with tick := lastTick.tick + 1 } =
        .next s2 ∧ s2.result = .transmitter .pending ∧
      exec (rxRow true) s2 = .next s3 ∧ s3.result = .receiver (.decoded (.ok [0xDE#8, 0xAD#8] 2#8)) true ∧
      nextAnd (exec (.tick true) lastTick) (·.tick == 6) = true :=
  ⟨_, _, rfl, rfl, rfl, rfl, by decide⟩

/-- TickCompletes, the transmitter's fault: an index of 255 (a state that no run reaches). -/
theorem witness_TickCompletes_transmitter_faults :
    exec (selectedTxRow { sessionAt .sendPayload 255#8 with tick := 7 }) { sessionAt .sendPayload 255#8 with tick := 7 } =
      .fault .bufferIndexOutOfRange := rfl

/-- TickCompletes, the receiver's fault: the transmitter row goes on and the receiver reads payload bytes that
nothing wrote (a state that no run reaches). -/
theorem witness_TickCompletes_receiver_faults :
    ∃ s2, exec (selectedTxRow { lastTick with tick := 6, rxBuf := [] }) { lastTick with tick := 6, rxBuf := [] } = .next s2 ∧
      exec (rxRow true) s2 = .fault .unwrittenBufferByte :=
  ⟨_, rfl, rfl⟩

/-- TickCompletes, StepKeepsInv, StepNeverFaults, UnspecifiedBytesNeverShow, RetxCounterFitsItsRegister: a
session in `AwaitAck` with a frame half received. -/
def midSession : State :=
  { awaiting 105 false with
    retxCount := 1, decState := .awaitPayload, rxLen := 2#8, rxCount := 1#8, rxChk := 0xDE#8,
    rxBuf := [(0, 0xDE#8), (1, 0x55#8)], rxWritten := 1, port := [2#8, 1#8] }

theorem witness_BlockInv : BlockInv midSession := by decide
theorem witness_step_goes_on : nextAnd (step midSession) (fun t => t.retxCount == 2 && t.tick == 106) = true := by decide
/-- With the slice up to the mark equal too, as RxBufferAccess asks. -/
theorem witness_UnspecifiedBytesNeverShow :
    SameSpecified midSession { midSession with rxBuf := [(0, 0xDE#8)] } ∧
    Memory.slice [(0, 0xDE#8)] midSession.rxWritten = midSession.rxBuf.slice midSession.rxWritten :=
  ⟨⟨rfl, by decide, by decide⟩, by decide⟩
theorem witness_RetxCounterFitsItsRegister :
    Sys2Proof.core.run 0 midSession = .next midSession ∧ midSession.tick < 2 ^ Config.tickW :=
  ⟨rfl, by decide⟩
theorem witness_AcknowledgmentLatency :
    nextAnd (exec (.tick true) { sessionAt .sendEnd 2#8 with
        decState := .awaitEnd, rxLen := 2#8, rxCount := 2#8, rxBuf := [(0, 0xDE#8), (1, 0xAD#8)] }) (fun t =>
      t.result == .tick .pending (.decoded (.ok [0xDE#8, 0xAD#8] 2#8)) && t.txPhase == .awaitAck) = true ∧
    nextAnd (exec (.tick false) (sessionAt .sendEnd 2#8)) (·.result == .tick .pending .notStepped) = true := by decide
theorem witness_ChannelAtBoundaries :
    nextAnd (exec (.tick true) (sessionAt .sendStart 0#8)) (fun _ => true) = true ∧
    nextAnd (exec (.tick false) (sessionAt .sendStart 0#8)) (·.channel == some 0x02#8) = true ∧
    nextAnd (exec (selectedTxRow (sessionAt .sendStart 0#8)) (sessionAt .sendStart 0#8)) (·.channel == some 0x02#8) = true ∧
    Instr.inSpace (hostSpace State.reset) (.startSend one) = true := by decide
theorem witness_LateAcknowledgmentIsKept :
    ({ sessionAt .sendEnd 2#8 with ackReceived := true } : State).ackReceived = true ∧
    (sessionAt .sendEnd 2#8).txPhase ≠ .awaitAck ∧
    nextAnd (exec (.tick true) { sessionAt .sendEnd 2#8 with ackReceived := true }) (fun _ => true) = true := by decide
theorem witness_idle_session : State.reset.txPhase = .idle ∧ State.reset.decState = .awaitStart := by decide
/-- In every decoder state, `AwaitEnd` and the middle of a frame among them. -/
theorem witness_WireSymbols :
    DecoderInv beforeEtx ∧ DecoderInv State.reset ∧ DecoderInv midSession := by decide

end Sys2Proof.Tests
end

namespace Sys2Proof.Machine

/-! ## `TIMEOUT` (00_scope.md R1) -/

/-- No row writes `TIMEOUT`. -/
theorem exec_timeout {i : Instr} {s t : State} (h : exec i s = .next t) : t.timeout = s.timeout := by
  cases exec_effect h with
  | decoder b u r row run next => simpa [next] using (decodeByte_frameFields run).timeout
  | frame p u rs row run next => rw [next, decodeBytes_frame run]; rfl
  | transmitter u r row run next => simpa [next] using (transmitterStep_frameFields run).timeout
  | receiver u r ackOut row run next => simpa [next] using (receiverStep_frameFields run).timeout
  | tick rxEn s1 s2 tx rx ackOut row transmitter receiver next =>
    obtain ⟨frame, _⟩ := receiverPart_cases receiver
    calc t.timeout = s2.timeout := by rw [next]; cases ackOut <;> rfl
      _ = s1.timeout := frame.timeout
      _ = s.timeout := (transmitterStep_frameFields transmitter).timeout
  | start p row idle next => rw [next]; rfl
  | returns r row quiet next => rw [next]; rfl
  | reset row next => rw [next]; rfl
  | ack row next => rw [next]
  | ackWrite bs n row next => rw [next]; rfl
  | handoff row next => rcases handoff_cases s with ⟨_, e⟩ | ⟨_, e⟩ <;> simp [next, e]

/-- Settles O3: the inversion of `exec` gives for every row a frame with `TIMEOUT` in it. -/
theorem timeoutIsFixed : Obligations.TimeoutIsFixed :=
  ⟨rfl, fun _ _ _ h => exec_timeout h⟩

/-! ## The operations on the host port (R70) -/

theorem withOperand_ok {α : Type} {f : α → Instr} {d : Decoded α} {i : Instr} {rest : List Byte} :
    withOperand f d = .ok (i, rest) ↔ ∃ a, d = .ok (a, rest) ∧ i = f a := by
  rcases d with e | ⟨a, after⟩
  · simp [withOperand]
  · simp [withOperand, eq_comm, and_comm]

/-- The host port's decoder reads rows of the host's space only. -/
theorem decodeHostOp_inSpace {idle : Bool} {bytes rest : List Byte} {i : Instr}
    (h : decodeHostOp idle bytes = .ok (i, rest)) : i.inSpace (.hostOp idle) = true := by
  cases bytes with
  | nil => simp [decodeHostOp] at h
  | cons c bytes =>
    simp only [decodeHostOp] at h
    split at h
    · simp at h
    · split at h
      case h_1 => simp at h; simp [← h.1, Instr.inSpace]
      case h_7 => simp at h
      all_goals
        obtain ⟨a, _, rfl⟩ := withOperand_ok.mp h
        cases idle <;> rfl

/-- A step that goes on found nothing on the port, or took an operation off it and executed that. -/
theorem step_eq_next {s t : State} :
    step s = .next t ↔ (s.port = [] ∧ t = s) ∨
      ∃ i rest, decodeIn (hostSpace s) s.port = .ok (i, rest) ∧ exec i { s with port := rest } = .next t := by
  unfold step
  cases hp : s.port with
  | nil => simp [decodeIn, hostSpace, decodeHostOp, eq_comm]
  | cons b bs => rcases hd : decodeIn (hostSpace s) (b :: bs) with e | ⟨i, rest⟩ <;> simp [hd]

/-! ## The count of a frame's stored bytes (R16) -/

/-- The clauses of `DecoderInv` that tie `rx_count` to `dec_state`: nothing is stored before the length
byte, and all of the payload is stored once the last payload byte is in (R16(b), R16(d)). Every row keeps
these two on their own. -/
def FrameCounted (s : State) : Prop :=
  (s.decState = .awaitLength → s.rxCount = 0#8) ∧
  (s.decState = .awaitChecksum ∨ s.decState = .awaitEnd ∨ s.decState = .awaitStart → s.rxCount = s.rxLen)

theorem DecoderInv.frameCounted {s : State} (h : DecoderInv s) : FrameCounted s := by
  obtain ⟨_, hlen, _, hcount, _⟩ := h
  exact ⟨fun hd => (hlen hd).2.1, hcount⟩

/-- The two clauses speak of three registers only. -/
theorem FrameCounted.congr {s t : State} (h : FrameCounted s) (hd : t.decState = s.decState)
    (hc : t.rxCount = s.rxCount) (hl : t.rxLen = s.rxLen) : FrameCounted t := by
  simpa only [FrameCounted, hd, hc, hl] using h

theorem FrameCounted.withResult {s : State} (h : FrameCounted s) (r : OpResult) :
    FrameCounted (s.withResult r) := h

theorem transmitterStep_frameCounted {s t : State} {r : TxResult} (hs : FrameCounted s)
    (h : transmitterStep s = .next (t, r)) : FrameCounted t :=
  have f := transmitterStep_frameFields h
  hs.congr f.decState f.rxCount f.rxLen

theorem decodeByte_frameCounted {b : Byte} {s t : State} {r : DecResult} (hs : FrameCounted s)
    (h : decodeByte b s = .next (t, r)) : FrameCounted t := by
  obtain ⟨hlen, hcount⟩ := hs
  rcases decodeByte_cases h with
    ⟨_, _, _, rfl⟩ | ⟨_, _, _, rfl⟩ | ⟨hd, _, rfl⟩ | ⟨_, hc, _, rfl⟩ | ⟨hd, _, _, rfl⟩ | ⟨hd, _, _, rfl⟩ |
    ⟨hd, _, _, rfl⟩ | ⟨hd, _, _, rfl⟩
  · simp [FrameCounted]
  · exact ⟨hlen, hcount⟩
  · by_cases hb : b = 0#8 <;> simp [FrameCounted, hb, hlen hd]
  · by_cases hn : s.rxCount.toNat + 1 = s.rxLen.toNat
    · have : s.rxCount + 1#8 = s.rxLen := by bv_omega
      simp [FrameCounted, hn, this]
    · simp [FrameCounted, hn]
  all_goals exact ⟨by simp, fun _ => hcount (by simp [hd])⟩

theorem decodeBytes_frameCounted {bs : List Byte} {s t : State} {rs : List DecResult} (hs : FrameCounted s)
    (h : decodeBytes bs s = .next (t, rs)) : FrameCounted t := by
  induction bs generalizing s t rs with
  | nil =>
    simp only [decodeBytes, Host.Outcome.next.injEq, Prod.mk.injEq] at h
    exact h.1 ▸ hs
  | cons b bs ih =>
    simp only [decodeBytes, andThen_eq_next, Host.Outcome.next.injEq, Prod.mk.injEq] at h
    obtain ⟨⟨s1, r⟩, h1, ⟨s2, rs'⟩, h2, rfl, _⟩ := h
    exact ih (decodeByte_frameCounted hs h1) h2

theorem receiverStep_frameCounted {s t : State} {r : RxResult} {ackOut : Bool} (hs : FrameCounted s)
    (h : receiverStep s = .next (t, r, ackOut)) : FrameCounted t := by
  rcases receiverStep_cases h with ⟨_, _, _, rfl⟩ | ⟨b, u, d, _, hd, _, ht⟩
  · exact hs
  · have hu : FrameCounted u := decodeByte_frameCounted (s := chClear s) hs hd
    rcases ht with ⟨_, _, _, _, rfl⟩ | ⟨_, _, rfl⟩ <;> exact hu

theorem receiverPart_frameCounted {rxEn : Bool} {s t : State} {r : RxResult} {ackOut : Bool}
    (hs : FrameCounted s) (h : receiverPart rxEn s = .next (t, r, ackOut)) : FrameCounted t := by
  cases rxEn with
  | false =>
    obtain ⟨_, _, _, _, hskip⟩ := receiverPart_cases h
    obtain ⟨rfl, _, _⟩ := hskip rfl
    exact hs
  | true => exact receiverStep_frameCounted hs h

/-- Every row keeps the count, FRAME among them. -/
theorem exec_frameCounted {i : Instr} {s t : State} (hs : FrameCounted s) (h : exec i s = .next t) :
    FrameCounted t := by
  cases exec_effect h with
  | decoder b u r row run next => exact next ▸ (decodeByte_frameCounted hs run).withResult _
  | frame p u rs row run next => exact next ▸ (decodeBytes_frameCounted hs run).withResult _
  | transmitter u r row run next => exact next ▸ (transmitterStep_frameCounted hs run).withResult _
  | receiver u r ackOut row run next => exact next ▸ (receiverStep_frameCounted hs run).withResult _
  | tick rxEn s1 s2 tx rx ackOut row transmitter receiver next =>
    have h1 : FrameCounted s1 := transmitterStep_frameCounted (s := tickIncrement s) hs transmitter
    have h2 : FrameCounted s2 := receiverPart_frameCounted h1 receiver
    cases ackOut <;> exact next ▸ h2
  | start p row idle next => exact next ▸ hs
  | returns r row quiet next => exact next ▸ hs
  | reset row next => exact next ▸ ⟨fun _ => rfl, fun _ => rfl⟩
  | ack row next => exact next ▸ hs
  | ackWrite bs n row next => exact next ▸ hs
  | handoff row next =>
    subst next
    rcases handoff_cases s with ⟨_, e⟩ | ⟨_, e⟩ <;> rw [e] <;> exact hs

/-! ## States that agree on the specified bytes (R5)

Each part of a host operation takes two such states to two such states, with the same value. -/

theorem slice_write_end_congr {m m' : Memory} {n : Nat} (b : Byte) (h : m'.slice n = m.slice n) :
    (m'.write n b).slice (n + 1) = (m.write n b).slice (n + 1) := by
  simp [Memory.slice, slice_write_above, h]

theorem read_eq_of_slice_eq {m m' : Memory} {n i : Nat} {bs : List Byte} (hm : m.slice n = some bs)
    (h : m'.slice n = m.slice n) (hi : i < n) : m'.read i = m.read i := by
  rw [read_of_slice hm hi, read_of_slice (h.trans hm) hi]

theorem sameSpecified_iff {s t : State} :
    SameSpecified s t ↔ ∃ rx tx : Memory, t = { s with rxBuf := rx, txBuf := tx } ∧
      rx.slice s.rxCount.toNat = s.rxBuf.slice s.rxCount.toNat ∧
      tx.slice s.txLen.toNat = s.txBuf.slice s.txLen.toNat := by
  constructor
  · rintro ⟨h, hrx, htx⟩
    exact ⟨_, _, h, hrx, htx⟩
  · rintro ⟨rx, tx, rfl, hrx, htx⟩
    exact ⟨rfl, hrx, htx⟩

theorem SameSpecified.chClear {s t : State} (h : SameSpecified s t) :
    SameSpecified (chClear s) (Machine.chClear t) :=
  ⟨congrArg Machine.chClear h.1, h.2⟩

theorem SameSpecified.chWrite {s t : State} (h : SameSpecified s t) (b : Byte) :
    SameSpecified (chWrite b s) (Machine.chWrite b t) :=
  ⟨congrArg (Machine.chWrite b) h.1, h.2⟩

theorem SameSpecified.tickIncrement {s t : State} (h : SameSpecified s t) :
    SameSpecified (tickIncrement s) (Machine.tickIncrement t) :=
  ⟨congrArg Machine.tickIncrement h.1, h.2⟩

theorem SameSpecified.withResult {s t : State} (h : SameSpecified s t) (r : OpResult) :
    SameSpecified (s.withResult r) (t.withResult r) :=
  ⟨congrArg (·.withResult r) h.1, h.2⟩

theorem SameSpecified.withPort {s t : State} (h : SameSpecified s t) (port : List Byte) :
    SameSpecified { s with port } { t with port } :=
  ⟨congrArg (fun u : State => { u with port }) h.1, h.2⟩

theorem SameSpecified.handoff {s t : State} (h : SameSpecified s t) :
    SameSpecified (handoff s) (Machine.handoff t) := by
  obtain ⟨rx, tx, rfl, hrx, htx⟩ := sameSpecified_iff.mp h
  unfold Machine.handoff
  split <;> exact ⟨rfl, hrx, htx⟩

theorem SameSpecified.resetState {s t : State} (h : SameSpecified s t) :
    SameSpecified (resetState s) (Machine.resetState t) := by
  obtain ⟨rx, tx, rfl, hrx, htx⟩ := sameSpecified_iff.mp h
  exact ⟨rfl, rfl, rfl⟩

/-- Whenever `o` goes on, `p` goes on with the same value, to a state that agrees on the specified bytes. -/
def Follows {α : Type} (o p : Outcome (State × α)) : Prop :=
  ∀ s' a, o = .next (s', a) → ∃ t', p = .next (t', a) ∧ SameSpecified s' t'

theorem Follows.next {α : Type} {s t : State} (h : SameSpecified s t) (a : α) :
    Follows (.next (s, a)) (.next (t, a)) := by
  intro s' a' e
  simp only [Host.Outcome.next.injEq, Prod.mk.injEq] at e
  obtain ⟨rfl, rfl⟩ := e
  exact ⟨t, rfl, h⟩

theorem Follows.andThen {α β : Type} {o p : Outcome (State × α)} {f : State × α → Outcome (State × β)}
    (h : Follows o p)
    (hf : ∀ s1 t1 a, o = .next (s1, a) → SameSpecified s1 t1 → Follows (f (s1, a)) (f (t1, a))) :
    Follows (andThen o f) (Machine.andThen p f) := by
  intro s' b e
  obtain ⟨⟨s1, a⟩, h1, h2⟩ := andThen_eq_next.mp e
  obtain ⟨t1, rfl, h3⟩ := h s1 a h1
  exact hf s1 t1 a h1 h3 s' b h2

theorem Follows.report {α : Type} {o p : Outcome (State × α)} (h : Follows o p) {f : α → OpResult} {s' : State}
    (e : report f o = .next s') : ∃ t', Machine.report f p = .next t' ∧ SameSpecified s' t' := by
  obtain ⟨u, a, hu, rfl⟩ := report_eq_next.mp e
  obtain ⟨v, rfl, hv⟩ := h u a hu
  exact ⟨_, rfl, hv.withResult _⟩

/-- A decoder step reads `rx_buf` only to deliver `rx_buf[0..rx_len)`, all of it below `rx_count`, and
writes the one byte that its new count takes in. -/
theorem decodeByte_buffers {b : Byte} {s s' : State} {r : DecResult} {rx : Memory} (tx : Memory)
    (hs : FrameCounted s) (hrx : rx.slice s.rxCount.toNat = s.rxBuf.slice s.rxCount.toNat)
    (h : decodeByte b s = .next (s', r)) :
    ∃ rx', decodeByte b { s with rxBuf := rx, txBuf := tx } = .next ({ s' with rxBuf := rx', txBuf := tx }, r) ∧
      rx'.slice s'.rxCount.toNat = s'.rxBuf.slice s'.rxCount.toNat := by
  rcases decodeByte_cases h with
    ⟨hd, hb, rfl, rfl⟩ | ⟨hd, hb, rfl, rfl⟩ | ⟨hd, rfl, rfl⟩ | ⟨hd, hc, rfl, rfl⟩ | ⟨hd, hb, rfl, rfl⟩ |
    ⟨hd, hb, rfl, rfl⟩ | ⟨hd, hb, ⟨bs, hbs, rfl⟩, rfl⟩ | ⟨hd, hb, rfl, rfl⟩
  · exact ⟨rx, by simp [decodeByte, hd, hb, decOpen], rfl⟩
  · exact ⟨rx, by simp [decodeByte, hd, hb, decSkip], hrx⟩
  · exact ⟨rx, by simp [decodeByte, hd, decLength], hrx⟩
  · have hw : bufWrite rx s.rxCount b = .next (rx.write s.rxCount.toNat b) := bufWrite_next.mpr ⟨hc, rfl⟩
    have hn : (s.rxCount + 1#8).toNat = s.rxCount.toNat + 1 := by simp only [Config.bufCap] at hc; bv_omega
    exact ⟨rx.write s.rxCount.toNat b, by simp [decodeByte, hd, decStore, hw],
      by simpa only [hn] using slice_write_end_congr b hrx⟩
  · exact ⟨rx, by simp [decodeByte, hd, hb, decChecked], hrx⟩
  · exact ⟨rx, by simp [decodeByte, hd, hb, raiseError], hrx⟩
  · have hlen : s.rxCount = s.rxLen := hs.2 (by simp [hd])
    have hp : bufPayload rx s.rxLen = .next bs := bufPayload_next.mpr (by rw [← hbs, ← hlen, hrx])
    exact ⟨rx, by simp [decodeByte, hd, hb, decDeliver, hp], hrx⟩
  · exact ⟨rx, by simp [decodeByte, hd, hb, raiseError], hrx⟩

theorem decodeByte_follows {b : Byte} {s t : State} (hs : FrameCounted s) (hst : SameSpecified s t) :
    Follows (decodeByte b s) (decodeByte b t) := by
  intro s' r h
  obtain ⟨rx, tx, rfl, hrx, htx⟩ := sameSpecified_iff.mp hst
  obtain ⟨rx', h', hrx'⟩ := decodeByte_buffers tx hs hrx h
  have f := decodeByte_frameFields h
  exact ⟨_, h', rfl, hrx', by simpa only [f.txLen, f.txBuf] using htx⟩

/-- A transmitter step reads `tx_buf` only at `tx_idx`, which is below `tx_len`, and writes no buffer. -/
theorem transmitterStep_buffers {s s' : State} {r : TxResult} {tx : Memory} (rx : Memory)
    (hs : TransmitterInv s) (htx : tx.slice s.txLen.toNat = s.txBuf.slice s.txLen.toNat)
    (h : transmitterStep s = .next (s', r)) :
    transmitterStep { s with rxBuf := rx, txBuf := tx } = .next ({ s' with rxBuf := rx, txBuf := tx }, r) := by
  obtain ⟨hidx, hchk, _⟩ := hs
  rcases transmitterStep_cases h with
    ⟨hp, rfl, rfl⟩ | ⟨hp, rfl, rfl⟩ | ⟨hp, hl, rfl, rfl⟩ | ⟨hp, hl, rfl, rfl⟩ | ⟨hp, hi, rfl, b, hb, rfl⟩ |
    ⟨hp, rfl, rfl⟩ | ⟨hp, rfl, rfl⟩ | ⟨hp, ha, rfl, rfl⟩ | ⟨hp, ha, hd, rfl, rfl⟩ | ⟨hp, ha, hd, rfl, rfl⟩
  · simp [transmitterStep, hp, txStepIdle]
  · simp [transmitterStep, hp, txStepStart, chWrite]
  · simp [transmitterStep, hp, txStepLength, hl, chWrite]
  · simp [transmitterStep, hp, txStepLength, hl, chWrite]
  · obtain ⟨bs, hbs, _⟩ := Option.map_eq_some_iff.mp hchk
    have hread : tx.read s.txIdx.toNat = some b := (read_eq_of_slice_eq hbs htx (hidx hp)).trans hb
    have hr : bufRead tx s.txIdx = .next b := bufRead_next.mpr ⟨hi, hread⟩
    simp [transmitterStep, hp, txStepPayload, hr, chWrite]
  · simp [transmitterStep, hp, txStepChecksum, chWrite]
  · simp [transmitterStep, hp, txStepEnd, chWrite]
  · simp [transmitterStep, hp, ha, txStepAcked]
  · simp [transmitterStep, hp, ha, ackDue, hd, takeAckTimeout, chWrite]
  · simp [transmitterStep, hp, ha, ackDue, hd, txStepWait]

theorem tickIncrement_transmitterInv {s : State} (hs : TransmitterInv s) : TransmitterInv (tickIncrement s) := by
  obtain ⟨hidx, hchk, hdue, htick⟩ := hs
  refine ⟨hidx, hchk, fun hp => ?_, ?_⟩
  · obtain ⟨hle, hdl⟩ := hdue hp
    exact ⟨hle, by simp only [tickIncrement_deadline, tickIncrement_tick, tickIncrement_timeout]; omega⟩
  · simp only [tickIncrement_retxCount, tickIncrement_txPhase, tickIncrement_tick]; omega

theorem transmitterStep_follows {s t : State} (hs : TransmitterInv s) (hst : SameSpecified s t) :
    Follows (transmitterStep s) (transmitterStep t) := by
  intro s' r h
  obtain ⟨rx, tx, rfl, hrx, htx⟩ := sameSpecified_iff.mp hst
  have f := transmitterStep_frameFields h
  exact ⟨_, transmitterStep_buffers rx hs htx h, rfl, by simpa only [f.rxCount, f.rxBuf] using hrx,
    by simpa only [f.txLen, f.txBuf] using htx⟩

/-- An accepted session's payload is loaded whole, over whatever the buffer held. -/
theorem startSend_follows {s t : State} (p : Payload) (hst : SameSpecified s t) :
    Follows (.next (startSend p s)) (.next (startSend p t)) := by
  obtain ⟨rx, tx, rfl, hrx, _⟩ := sameSpecified_iff.mp hst
  have hload : ∀ m : Memory, (m.load 0 p.bytes).slice (payloadLen p).toNat = some p.bytes := fun m => by
    rw [payloadLen_toNat, load_slice_zero]
  by_cases hp : s.txPhase = .idle
  · simp only [startSend, sessionIdle, hp, beq_self_eq_true, if_true]
    exact .next ⟨rfl, hrx, (hload tx).trans (hload s.txBuf).symm⟩ _
  · simp only [startSend, sessionIdle, beq_eq_false_iff_ne.mpr hp]
    exact .next hst _

theorem receiverStep_follows {s t : State} (hs : FrameCounted s) (hst : SameSpecified s t) :
    Follows (receiverStep s) (receiverStep t) := by
  have hch : t.channel = s.channel := by rw [hst.1]
  cases hc : s.channel with
  | none =>
    simp only [receiverStep, chRead, hch, hc]
    exact .next hst _
  | some b =>
    simp only [receiverStep, chRead, hch, hc]
    refine (decodeByte_follows (s := chClear s) hs hst.chClear).andThen fun s1 t1 r _ h1 => ?_
    cases r with
    | ok bs n => exact .next (h1.chWrite _) _
    | inProgress => exact .next h1 _
    | error c => exact .next h1 _

theorem receiverPart_follows {rxEn : Bool} {s t : State} (hs : FrameCounted s) (hst : SameSpecified s t) :
    Follows (receiverPart rxEn s) (receiverPart rxEn t) := by
  cases rxEn with
  | false => exact .next hst _
  | true => exact receiverStep_follows hs hst

/-- The parts of a tick follow each other, and the receiver finds the count that the transmitter left. -/
theorem tickBody_follows {rxEn : Bool} {s t : State} (hd : FrameCounted s) (ht : TransmitterInv s)
    (hst : SameSpecified s t) : Follows (tickBody rxEn s) (tickBody rxEn t) := by
  refine (transmitterStep_follows (tickIncrement_transmitterInv ht) hst.tickIncrement).andThen
    fun s1 t1 tx run h1 => ?_
  have hd1 : FrameCounted s1 := transmitterStep_frameCounted (s := tickIncrement s) hd run
  refine (receiverPart_follows hd1 h1).andThen fun s2 t2 v _ h2 => ?_
  obtain ⟨rx, ackOut⟩ := v
  cases ackOut with
  | false => exact .next h2 _
  | true => exact .next h2.handoff _

/-- A host operation answers alike from two states that agree on the specified bytes. -/
theorem exec_sameSpecified {i : Instr} {idle : Bool} {s t s' : State} (hi : i.inSpace (.hostOp idle) = true)
    (hd : FrameCounted s) (ht : TransmitterInv s) (hst : SameSpecified s t) (h : exec i s = .next s') :
    ∃ t', exec i t = .next t' ∧ SameSpecified s' t' := by
  cases i <;> simp only [Instr.inSpace, reduceCtorEq, Bool.false_eq_true, beq_iff_eq] at hi
  case reset =>
    simp only [exec, execReset, Host.Outcome.next.injEq] at h
    exact ⟨_, rfl, h ▸ hst.resetState⟩
  case startSend p => exact (startSend_follows p hst).report h
  case startSendBusy p =>
    obtain ⟨hbusy, h⟩ := whenSelected_eq_next.mp h
    have hphase : sessionIdle t = sessionIdle s := by rw [hst.1]; rfl
    simp only [exec, execStartSendBusy, hphase, hbusy, whenSelected_true]
    exact Follows.report (.next hst _) h
  case tick rxEn => exact (tickBody_follows hd ht hst).report h
  case decodeStep b => exact (decodeByte_follows hd hst).report h
  case checksum bs => exact Follows.report (.next hst _) h
  case encodeFrame p => exact Follows.report (.next hst _) h

theorem step_frameCounted {s t : State} (hs : FrameCounted s) (h : step s = .next t) : FrameCounted t := by
  rcases step_eq_next.mp h with ⟨_, rfl⟩ | ⟨i, rest, _, h⟩
  · exact hs
  · exact exec_frameCounted (s := { s with port := rest }) hs h

/-- Both states take the same operation off the host port: neither the port nor `tx_phase` is a buffer. -/
theorem step_sameSpecified {s t s' : State} (hd : FrameCounted s) (ht : TransmitterInv s)
    (hst : SameSpecified s t) (h : step s = .next s') : ∃ t', step t = .next t' ∧ SameSpecified s' t' := by
  have hport : t.port = s.port := by rw [hst.1]
  have hspace : hostSpace t = hostSpace s := by rw [hst.1]; rfl
  rcases step_eq_next.mp h with ⟨hp, rfl⟩ | ⟨i, rest, hi, h⟩
  · exact ⟨t, step_eq_next.mpr (.inl ⟨hport.trans hp, rfl⟩), hst⟩
  · obtain ⟨t', ht', hst'⟩ := exec_sameSpecified (s := { s with port := rest }) (t := { t with port := rest })
      (decodeHostOp_inSpace hi) hd ht (hst.withPort rest) h
    exact ⟨t', step_eq_next.mpr (.inr ⟨i, rest, by rwa [hport, hspace], ht'⟩), hst'⟩

/-- In `AwaitStart` the delivered bytes are those below `rx_count`. -/
theorem SameSpecified.deliveredBytes {s t : State} (h : SameSpecified s t) (hs : FrameCounted s)
    (hd : s.decState = .awaitStart) : t.rxBuf.slice t.rxLen.toNat = s.rxBuf.slice s.rxLen.toNat := by
  obtain ⟨rx, tx, rfl, hrx, _⟩ := sameSpecified_iff.mp h
  rwa [hs.2 (.inr (.inr hd))] at hrx

/-- Settles O59: the step from the second state follows the step from the first, part by part. -/
theorem unspecifiedBytesNeverShow : Obligations.UnspecifiedBytesNeverShow := by
  intro s t s' hinv hst h
  obtain ⟨hdec, htx, _⟩ := hinv
  have hd : FrameCounted s := DecoderInv.frameCounted hdec
  obtain ⟨t', ht', hst'⟩ := step_sameSpecified hd htx hst h
  exact ⟨t', ht', hst', by rw [hst'.1], hst'.deliveredBytes (step_frameCounted hd h)⟩

end Sys2Proof.Machine

namespace Sys2Proof.Machine

/-! ## The reset state (R33) -/

/-- Settles O1: R33's values are the fields of `State.reset`. -/
theorem resetRegisterValues : Obligations.ResetRegisterValues := by
  unfold Obligations.ResetRegisterValues
  decide

/-! ## The registers of a session (10_state.md R17 to R25) -/

/-- The registers that only the transmitter, START_SEND, the tick and RESET write. `ack_received` is not
among them: the handoff writes it too (R26). -/
structure SessionFrame (s t : State) : Prop where
  txPhase : t.txPhase = s.txPhase
  txIdx : t.txIdx = s.txIdx
  txLen : t.txLen = s.txLen
  txChk : t.txChk = s.txChk
  txBuf : t.txBuf = s.txBuf
  retxCount : t.retxCount = s.retxCount
  deadline : t.deadline = s.deadline
  tick : t.tick = s.tick

theorem DecoderFrame.session {s t : State} (f : DecoderFrame s t) : SessionFrame s t :=
  ⟨f.txPhase, f.txIdx, f.txLen, f.txChk, f.txBuf, f.retxCount, f.deadline, f.tick⟩

theorem ReceiverFrame.session {s t : State} (f : ReceiverFrame s t) : SessionFrame s t :=
  ⟨f.txPhase, f.txIdx, f.txLen, f.txChk, f.txBuf, f.retxCount, f.deadline, f.tick⟩

theorem SessionFrame.trans {s t u : State} (f : SessionFrame s t) (g : SessionFrame t u) : SessionFrame s u :=
  ⟨g.txPhase.trans f.txPhase, g.txIdx.trans f.txIdx, g.txLen.trans f.txLen, g.txChk.trans f.txChk,
    g.txBuf.trans f.txBuf, g.retxCount.trans f.retxCount, g.deadline.trans f.deadline, g.tick.trans f.tick⟩

theorem withResult_session (s : State) (r : OpResult) : SessionFrame s (s.withResult r) := by
  constructor <;> rfl

/-- The rows that may write a session register: RESET, TICK, START_SEND where it is accepted (`idle`), and
the TX rows, whatever the conditions of `AwaitAck` are. -/
def writesSession (idle : Bool) : Instr → Bool
  | .reset => true
  | .tick _ => true
  | .startSend _ => idle
  | i => i.inSpace (.txStep true false) || i.inSpace (.txStep false true) || i.inSpace (.txStep false false)

theorem writesSession_decRow {i : Instr} {d : DecState} {c : Byte} (h : i.inSpace (.decByte d c) = true)
    (idle : Bool) : writesSession idle i = false := by
  cases i <;> simp only [Instr.inSpace, reduceCtorEq, Bool.false_eq_true, beq_iff_eq] at h <;> rfl

/-- What a row that answers a next state does to the registers of the session (`RowEffect`, seen from the
transmitter). -/
inductive SessionEffect (i : Instr) (s t : State) : Prop
  | reset (row : i = .reset) (next : t = resetState s)
  | start (p : Payload) (row : i = .startSend p) (idle : s.txPhase = .idle)
      (frame : SessionFrame (startAccepted p s).1 t)
  | transmitter (u : State) (r : TxResult) (row : i = selectedTxRow s)
      (run : transmitterStep s = .next (u, r)) (frame : SessionFrame u t)
  | tick (rxEn : Bool) (u : State) (r : TxResult) (row : i = .tick rxEn)
      (run : transmitterStep (tickIncrement s) = .next (u, r)) (frame : SessionFrame u t)
  | leaves (row : writesSession (sessionIdle s) i = false) (frame : SessionFrame s t)

theorem exec_sessionEffect {i : Instr} {s t : State} (h : exec i s = .next t) : SessionEffect i s t := by
  cases exec_effect h with
  | decoder b u r row run next =>
    subst next
    refine .leaves ?_ ((decodeByte_frameFields run).session.trans (withResult_session u _))
    rcases row with ⟨hi, _⟩ | rfl | ⟨rfl, _⟩ | ⟨rfl, _⟩
    · exact writesSession_decRow hi _
    all_goals rfl
  | frame p u rs row run next =>
    subst row next
    refine .leaves rfl (.trans ?_ (withResult_session u _))
    rw [decodeBytes_frame run]; constructor <;> rfl
  | transmitter u r row run next => exact .transmitter u r row run (next ▸ withResult_session u _)
  | receiver u r ackOut row run next =>
    subst row next
    exact .leaves rfl ((receiverStep_frameFields run).session.trans (withResult_session u _))
  | tick rxEn s1 s2 tx rx ackOut row transmitter receiver next =>
    have f : SessionFrame s1 s2 := (receiverPart_cases receiver).1.session
    subst next
    exact .tick rxEn s1 tx row transmitter (f.trans (by cases ackOut <;> constructor <;> rfl))
  | start p row idle next => exact .start p row idle (next ▸ withResult_session _ _)
  | returns r row quiet next =>
    refine .leaves ?_ (next ▸ withResult_session s r)
    rcases row with ⟨p, rfl, busy⟩ | ⟨p, rfl⟩ | ⟨bs, rfl⟩ | ⟨p, rfl⟩ | rfl
    · simpa [writesSession, sessionIdle] using busy
    all_goals rfl
  | reset row next => exact .reset row next
  | ack row next => subst row next; exact .leaves rfl (by constructor <;> rfl)
  | ackWrite bs n row next => subst row next; exact .leaves rfl (by constructor <;> rfl)
  | handoff row next =>
    subst row next
    refine .leaves rfl (.trans ?_ (withResult_session _ _))
    rcases handoff_cases s with ⟨_, e⟩ | ⟨_, e⟩ <;> rw [e] <;> constructor <;> rfl

/-! ## The row that `tx_phase` selects (R72, R112) -/

/-- The transmitter step is the row that the state selects. -/
theorem exec_selectedTxRow (s : State) :
    exec (selectedTxRow s) s = report .transmitter (transmitterStep s) := by
  cases hp : s.txPhase
  case awaitAck =>
    cases ha : s.ackReceived
    · cases hd : ackDue s <;>
        simp [selectedTxRow, txRow, hp, ha, hd, exec, execTxAwaitAckTimeout, execTxAwaitAckWait, transmitterStep]
    · simp [selectedTxRow, txRow, hp, ha, exec, execTxAwaitAckAck, transmitterStep]
  all_goals
    simp [selectedTxRow, txRow, hp, exec, execTxIdle, execTxSendStart, execTxSendLength, execTxSendPayload,
      execTxSendChecksum, execTxSendEnd, transmitterStep]

/-- The receiver's part of a tick is the row that `rx_en` selects. -/
theorem exec_rxRow (rxEn : Bool) (s : State) :
    exec (rxRow rxEn) s = report receiverResult (receiverPart rxEn s) := by
  cases rxEn <;> rfl

/-- What the transmitter writes of `retx_count` (R119). -/
theorem transmitterStep_retxCount {s t : State} {r : TxResult} (h : transmitterStep s = .next (t, r)) :
    t.retxCount = if s.txPhase = .awaitAck ∧ s.ackReceived = false ∧ s.deadline ≤ s.tick
      then s.retxCount + 1 else s.retxCount := by
  rcases transmitterStep_cases h with
    ⟨hp, _, rfl⟩ | ⟨hp, _, rfl⟩ | ⟨hp, _, _, rfl⟩ | ⟨hp, _, _, rfl⟩ | ⟨hp, _, _, _, _, rfl⟩ | ⟨hp, _, rfl⟩ |
    ⟨hp, _, rfl⟩ | ⟨hp, ha, _, rfl⟩ | ⟨hp, ha, hd, _, rfl⟩ | ⟨hp, ha, hd, _, rfl⟩ <;> simp [*]

/-- What the transmitter writes of `deadline` (R117). -/
theorem transmitterStep_deadline {s t : State} {r : TxResult} (h : transmitterStep s = .next (t, r)) :
    t.deadline = if s.txPhase = .sendEnd then s.tick + s.timeout else s.deadline := by
  rcases transmitterStep_cases h with
    ⟨hp, _, rfl⟩ | ⟨hp, _, rfl⟩ | ⟨hp, _, _, rfl⟩ | ⟨hp, _, _, rfl⟩ | ⟨hp, _, _, _, _, rfl⟩ | ⟨hp, _, rfl⟩ |
    ⟨hp, _, rfl⟩ | ⟨hp, _, _, rfl⟩ | ⟨hp, _, _, _, rfl⟩ | ⟨hp, _, _, _, rfl⟩ <;> simp [hp]

/-! ## `retx_count` (R22) -/

/-- Settles O5: the count is the transmitter step's, so a timeout adds 1; in a TICK the timeout is decided on
the incremented tick, and the row TX.AWAITACK.TIMEOUT is selected exactly where the step times out. -/
theorem retxCounterWriters : Obligations.RetxCounterWriters := by
  intro i s t h
  cases exec_sessionEffect h with
  | reset row next => subst row next; rfl
  | start p row idle frame => subst row; simp [frame.retxCount, startAccepted, idle]
  | transmitter u r row run frame =>
    rw [frame.retxCount, transmitterStep_retxCount run, row, selectedTxRow]
    fun_cases txRow s.txPhase s.ackReceived (ackDue s) <;> simp_all [ackDue]
  | tick rxEn u r row run frame => subst row; exact frame.retxCount.trans (transmitterStep_retxCount run)
  | leaves row frame =>
    rw [frame.retxCount]
    cases i <;> simp_all [writesSession, sessionIdle, Instr.inSpace]

/-! ## `deadline` (R23) -/

/-- Outside `AwaitAck` the transmitter reads no deadline: it keeps it, or writes it in `SendEnd`. -/
theorem transmitterStep_deadline_other {s t : State} {r : TxResult} (d : Nat) (hp : s.txPhase ≠ .awaitAck)
    (h : transmitterStep s = .next (t, r)) :
    transmitterStep { s with deadline := d } =
      .next ({ t with deadline := if s.txPhase = .sendEnd then t.deadline else d }, r) := by
  rcases transmitterStep_cases h with
    ⟨hq, rfl, rfl⟩ | ⟨hq, rfl, rfl⟩ | ⟨hq, hl, rfl, rfl⟩ | ⟨hq, hl, rfl, rfl⟩ | ⟨hq, hi, rfl, b, hb, rfl⟩ |
    ⟨hq, rfl, rfl⟩ | ⟨hq, rfl, rfl⟩ | ⟨hq, _⟩ | ⟨hq, _⟩ | ⟨hq, _⟩
  · simp [transmitterStep, hq, txStepIdle]
  · simp [transmitterStep, hq, txStepStart, chWrite]
  · simp [transmitterStep, hq, txStepLength, hl, chWrite]
  · simp [transmitterStep, hq, txStepLength, hl, chWrite]
  · simp [transmitterStep, hq, txStepPayload, bufRead_next.mpr ⟨hi, hb⟩, chWrite]
  · simp [transmitterStep, hq, txStepChecksum, chWrite]
  · simp [transmitterStep, hq, txStepEnd, chWrite]
  all_goals exact absurd hq hp

theorem selectedTxRow_deadline_other {s : State} (d : Nat) (hp : s.txPhase ≠ .awaitAck) :
    selectedTxRow { s with deadline := d } = selectedTxRow s := by
  cases hq : s.txPhase <;> simp_all [selectedTxRow, txRow]

/-- Settles O6: the deadline is the transmitter step's, and that step reads it in `AwaitAck` only. -/
theorem deadlineWriters : Obligations.DeadlineWriters := by
  refine ⟨fun i s t h => ?_, fun s d hp => ?_⟩
  · cases exec_sessionEffect h with
    | reset row next => subst row next; rfl
    | start p row idle frame => subst row; exact frame.deadline
    | transmitter u r row run frame =>
      rw [frame.deadline, transmitterStep_deadline run, row, selectedTxRow]
      fun_cases txRow s.txPhase s.ackReceived (ackDue s) <;> simp_all
    | tick rxEn u r row run frame => subst row; exact frame.deadline.trans (transmitterStep_deadline run)
    | leaves row frame =>
      rw [frame.deadline]
      cases i <;> simp_all [writesSession, Instr.inSpace]
  · have hrow := selectedTxRow_deadline_other d hp
    refine ⟨hrow, fun t h => ?_⟩
    rw [exec_selectedTxRow] at h
    obtain ⟨u, r, run, rfl⟩ := report_eq_next.mp h
    rw [← hrow, exec_selectedTxRow, transmitterStep_deadline_other d hp run]
    rfl

/-! ## `tx_len`, `tx_chk` and `tx_buf` (R19 to R21) -/

/-- Settles O8: no transmitter step writes the session's data (`TransmitterFrame`). -/
theorem sessionDataIsStable : Obligations.SessionDataIsStable := by
  intro i s t h
  cases exec_sessionEffect h with
  | reset row next => subst row next; exact ⟨rfl, rfl, fun _ => rfl, by simp⟩
  | start p row idle frame =>
    subst row
    refine ⟨?_, ?_, ?_, ?_⟩
    · simp [frame.txLen, startAccepted, idle]
    · simp [frame.txChk, startAccepted, idle]
    · simp [idle]
    · rintro q hq -
      obtain rfl : p = q := by simpa using hq
      rw [frame.txBuf, frame.txLen]
      exact (congrArg _ (payloadLen_toNat p)).trans (load_slice_zero s.txBuf p.bytes)
  | transmitter u r row run frame =>
    have f := transmitterStep_frameFields run
    rw [frame.txLen, frame.txChk, frame.txBuf, f.txLen, f.txChk, f.txBuf, row, selectedTxRow]
    fun_cases txRow s.txPhase s.ackReceived (ackDue s) <;> simp
  | tick rxEn u r row run frame =>
    have f := transmitterStep_frameFields run
    subst row
    exact ⟨frame.txLen.trans f.txLen, frame.txChk.trans f.txChk, fun _ => frame.txBuf.trans f.txBuf, by simp⟩
  | leaves row frame =>
    rw [frame.txLen, frame.txChk, frame.txBuf]
    cases i <;> simp_all [writesSession, sessionIdle, Instr.inSpace]

/-! ## `tick` (R25, R141) -/

/-- `tick` and `deadline` moved by the same amount. -/
def shiftTicks (k : Nat) (s : State) : State :=
  { s with tick := s.tick + k, deadline := s.deadline + k }

theorem tickIncrement_shiftTicks (k : Nat) (s : State) :
    tickIncrement (shiftTicks k s) = shiftTicks k (tickIncrement s) := by
  simp [tickIncrement, shiftTicks, Nat.add_right_comm]

/-- The transmitter compares `tick` with `deadline` and adds `TIMEOUT` to it; so it reads only their
difference. -/
theorem transmitterStep_shiftTicks {s t : State} {r : TxResult} (k : Nat)
    (h : transmitterStep s = .next (t, r)) :
    transmitterStep (shiftTicks k s) = .next (shiftTicks k t, r) := by
  rcases transmitterStep_cases h with
    ⟨hp, rfl, rfl⟩ | ⟨hp, rfl, rfl⟩ | ⟨hp, hl, rfl, rfl⟩ | ⟨hp, hl, rfl, rfl⟩ | ⟨hp, hi, rfl, b, hb, rfl⟩ |
    ⟨hp, rfl, rfl⟩ | ⟨hp, rfl, rfl⟩ | ⟨hp, ha, rfl, rfl⟩ | ⟨hp, ha, hd, rfl, rfl⟩ | ⟨hp, ha, hd, rfl, rfl⟩ <;>
    simp only [transmitterStep, shiftTicks, hp]
  · simp [txStepIdle]
  · simp [txStepStart, chWrite]
  · simp [txStepLength, hl, chWrite]
  · simp [txStepLength, hl, chWrite]
  · simp [txStepPayload, bufRead_next.mpr ⟨hi, hb⟩, chWrite]
  · simp [txStepChecksum, chWrite]
  · simp [txStepEnd, chWrite, Nat.add_right_comm]
  · simp [ha, txStepAcked]
  · simp [ha, ackDue, hd, takeAckTimeout, chWrite]
  · simp [ha, ackDue, hd, txStepWait]

/-- The receiver reads neither the two tick registers nor the last result. -/
theorem receiverPart_ticks_result {rxEn : Bool} {s t : State} {v : RxResult × Bool}
    (h : receiverPart rxEn s = .next (t, v)) (tick deadline : Nat) (result : OpResult) :
    receiverPart rxEn { s with tick, deadline, result } = .next ({ t with tick, deadline, result }, v) := by
  obtain ⟨f, _⟩ := receiverPart_cases h
  have other := receiverPart_other rxEn s s.txPhase s.txIdx s.txLen s.txChk s.txBuf s.retxCount deadline tick
    s.ackReceived s.timeout s.port result
  rw [h, andThen_next] at other
  simpa only [f.txPhase, f.txIdx, f.txLen, f.txChk, f.txBuf, f.retxCount, f.ackReceived, f.timeout, f.port]
    using other

theorem receiverPart_shiftTicks {rxEn : Bool} {s t : State} {v : RxResult × Bool} (k : Nat)
    (h : receiverPart rxEn s = .next (t, v)) :
    receiverPart rxEn (shiftTicks k s) = .next (shiftTicks k t, v) := by
  obtain ⟨f, _⟩ := receiverPart_cases h
  simpa only [shiftTicks, f.tick, f.deadline, f.result] using
    receiverPart_ticks_result h (s.tick + k) (s.deadline + k) s.result

theorem receiverPart_withResult {rxEn : Bool} {s t : State} {v : RxResult × Bool} (r : OpResult)
    (h : receiverPart rxEn s = .next (t, v)) :
    receiverPart rxEn (s.withResult r) = .next (t.withResult r, v) := by
  obtain ⟨f, _⟩ := receiverPart_cases h
  simpa only [State.withResult, f.tick, f.deadline] using receiverPart_ticks_result h s.tick s.deadline r

theorem handoff_shiftTicks (k : Nat) (s : State) : handoff (shiftTicks k s) = shiftTicks k (handoff s) := by
  rcases handoff_cases s with ⟨hc, e⟩ | ⟨hc, e⟩ <;> rw [e] <;> simp [handoff, shiftTicks, chClear, hc]

/-- Each part of a tick commutes with the move. -/
theorem tickBody_shiftTicks {rxEn : Bool} {s t : State} {v : TxResult × RxResult} (k : Nat)
    (h : tickBody rxEn s = .next (t, v)) : tickBody rxEn (shiftTicks k s) = .next (shiftTicks k t, v) := by
  obtain ⟨s1, s2, ackOut, htx, hrx, rfl⟩ := tickBody_cases h
  simp only [tickBody, tickIncrement_shiftTicks, transmitterStep_shiftTicks k htx, andThen_next,
    receiverPart_shiftTicks k hrx]
  cases ackOut <;> simp [handoff_shiftTicks]

/-- Only differences of tick values matter to a TICK (R25). -/
theorem execTick_shiftTicks {rxEn : Bool} {s t : State} (k : Nat) (h : exec (.tick rxEn) s = .next t) :
    exec (.tick rxEn) (shiftTicks k s) = .next (shiftTicks k t) := by
  obtain ⟨u, v, hu, rfl⟩ := report_eq_next.mp h
  exact report_eq_next.mpr ⟨_, v, tickBody_shiftTicks k hu, rfl⟩

/-- Settles O4: neither machine writes `tick` (their frames), and the rows of a TICK's two machines are its
transmitter step on the incremented state and its receiver part on what that leaves. -/
theorem tickCounterWriters : Obligations.TickCounterWriters := by
  refine ⟨fun i s t h => ?_, fun rxEn s t k h => execTick_shiftTicks k h, ?_⟩
  · cases exec_sessionEffect h with
    | reset row next => subst row next; rfl
    | start p row idle frame => subst row; exact frame.tick
    | transmitter u r row run frame =>
      rw [frame.tick, (transmitterStep_frameFields run).tick, row, selectedTxRow]
      fun_cases txRow s.txPhase s.ackReceived (ackDue s) <;> rfl
    | tick rxEn u r row run frame =>
      subst row; exact frame.tick.trans (transmitterStep_frameFields run).tick
    | leaves row frame =>
      rw [frame.tick]
      cases i <;> simp_all [writesSession]
  · rintro rxEn s t s1 rfl h
    obtain ⟨u, v, tx, rx, ackOut, htx, hrx, rfl⟩ := execTick_cases h
    obtain ⟨f, _⟩ := receiverPart_cases hrx
    have hu : u.tick = s.tick + 1 := (transmitterStep_frameFields htx).tick
    have hv : v.tick = s.tick + 1 := f.tick.trans hu
    refine ⟨u.withResult (.transmitter tx), (v.withResult (.transmitter tx)).withResult (.receiver rx ackOut),
      ?_, ?_, hu, hv, ?_⟩
    · exact (exec_selectedTxRow _).trans (report_eq_next.mpr ⟨u, tx, htx, rfl⟩)
    · rw [exec_rxRow, receiverPart_withResult _ hrx]; rfl
    · cases ackOut <;>
        exact ⟨f.txPhase, f.txIdx, f.retxCount, f.deadline, rfl, rfl, rfl, rfl, rfl⟩

end Sys2Proof.Machine

namespace Sys2Proof.Machine

/-! ## The acknowledgment latency (20_memory.md R52) -/

/-- The transmitter's part of a TICK is its step on the incremented state: neither the receiver nor the
handoff changes its result or a session register, whatever `rx_en` is. -/
theorem execTick_transmitter {rxEn : Bool} {s t : State} {tx : TxResult} {rx : RxResult}
    (h : exec (.tick rxEn) s = .next t) (hr : t.result = .tick tx rx) :
    ∃ u, transmitterStep (tickIncrement s) = .next (u, tx) ∧ SessionFrame u t := by
  obtain ⟨u, v, tx', rx', ackOut, htx, hrx, rfl⟩ := execTick_cases h
  have f : SessionFrame u v := (receiverPart_cases hrx).1.session
  cases ackOut <;> cases hr <;> exact ⟨u, htx, f.trans (by constructor <;> rfl)⟩

/-- A TICK whose receiver accepted a frame leaves `ack_received` set: `Ok` raises `ack_out`, and the handoff
takes the ACK (R131, R143). -/
theorem execTick_ackReceived_of_ok {rxEn : Bool} {s t : State} {tx : TxResult} {bs : List Byte} {n : Byte}
    (h : exec (.tick rxEn) s = .next t) (hr : t.result = .tick tx (.decoded (.ok bs n))) :
    t.ackReceived = true := by
  obtain ⟨u, v, tx', rx', ackOut, -, hrx, rfl⟩ := execTick_cases h
  obtain ⟨-, hack, -⟩ := receiverPart_cases hrx
  cases ackOut with
  | true => rfl
  | false =>
    cases hr
    exact absurd (hack.mpr ⟨bs, n, rfl⟩) Bool.false_ne_true

/-- In `AwaitAck` the acknowledgment is looked at before the deadline (R118). -/
theorem selectedTxRow_acked {s : State} (hp : s.txPhase = .awaitAck) (ha : s.ackReceived = true) :
    selectedTxRow s = .txAwaitAckAck := by
  simp [selectedTxRow, txRow, hp, ha]

/-- Settles O49: with and without the receiver, the transmitter's part is the one step on the incremented
state; the mark of an `Ok` stands from the handoff on, and the next tick's increment leaves it. -/
theorem acknowledgmentLatency : Obligations.AcknowledgmentLatency := by
  refine ⟨fun s t u tx rx tx' rx' ht hu hrt hru => ?_, fun s t tx bs n h hr => ?_⟩
  · obtain ⟨v, hv, f⟩ := execTick_transmitter ht hrt
    obtain ⟨w, hw, g⟩ := execTick_transmitter hu hru
    obtain ⟨rfl, rfl⟩ : v = w ∧ tx = tx' := by simpa [hv] using hw
    exact ⟨rfl, f.txPhase.trans g.txPhase.symm, f.txIdx.trans g.txIdx.symm,
      f.retxCount.trans g.retxCount.symm, f.deadline.trans g.deadline.symm⟩
  · have ha : t.ackReceived = true := execTick_ackReceived_of_ok h hr
    exact ⟨ha, fun hp => selectedTxRow_acked hp ha⟩

end Sys2Proof.Machine

namespace Sys2Proof.Machine

/-! ## The port values (30_encoding.md R68, R69, R71) -/

theorem decState_ordinal_toNat_le (d : DecState) : d.ordinal.toNat ≤ 4 := by
  cases d <;> decide

theorem txPhase_ordinal_toNat_le (p : TxPhase) : p.ordinal.toNat ≤ 6 := by
  cases p <;> decide

/-- Only the transition on ETX answers `Ok` (R97), and it writes neither `rx_buf` nor `rx_len`. -/
theorem decodeByte_ok_payload {b n : Byte} {s t : State} {bs : List Byte}
    (h : decodeByte b s = .next (t, .ok bs n)) : t.rxBuf.slice t.rxLen.toNat = some bs ∧ n = t.rxLen := by
  rcases decodeByte_cases h with
    ⟨_, _, ⟨⟩, _⟩ | ⟨_, _, ⟨⟩, _⟩ | ⟨_, ⟨⟩, _⟩ | ⟨_, _, ⟨⟩, _⟩ | ⟨_, _, ⟨⟩, _⟩ | ⟨_, _, ⟨⟩, _⟩ |
    ⟨_, _, ⟨_, payload, ⟨⟩⟩, rfl⟩ | ⟨_, _, ⟨⟩, _⟩
  exact ⟨payload, rfl⟩

/-- What an `Ok` of DECODE_STEP carries (R71). -/
theorem execDecodeStep_ok_payload {b n : Byte} {s t : State} {bs : List Byte}
    (h : exec (.decodeStep b) s = .next t) (hr : t.result = .decoder (.ok bs n)) :
    t.rxBuf.slice t.rxLen.toNat = some bs ∧ n = t.rxLen := by
  obtain ⟨u, r, run, rfl⟩ := report_eq_next.mp h
  obtain rfl : r = .ok bs n := OpResult.decoder.inj hr
  have payload := decodeByte_ok_payload run
  exact payload

/-- Settles O10: the codes are the tables of the rules, and an `Ok` is the decoder step's on ETX. -/
theorem portCodes : Obligations.PortCodes := by
  refine ⟨rfl, rfl, decState_ordinal_toNat_le, txPhase_ordinal_toNat_le, rfl, fun _ _ => rfl, fun _ => rfl, rfl,
    rfl, rfl, fun _ _ => rfl, fun _ => rfl, rfl, rfl, rfl, rfl, rfl, rfl, rfl, ?_⟩
  intro s b t bs n h hr
  exact execDecodeStep_ok_payload h hr

end Sys2Proof.Machine

namespace Sys2Proof

/-! ## The corner cases of the checksum and of the frame (40_checksum_encoder.md R80, R83) -/

theorem checksum_singleton (b : Byte) : checksum [b] = b := by simp

/-- XOR is commutative and associative, so the fold is the same in every order of the bytes. -/
theorem checksum_perm {bs cs : List Byte} (p : bs.Perm cs) : checksum bs = checksum cs :=
  p.foldl_eq 0x00#8

/-- Two equal bytes cancel. -/
theorem checksum_cons_cons_self (b : Byte) (bs : List Byte) : checksum (b :: b :: bs) = checksum bs := by
  simp

/-- A first byte that occurs an even number of times occurs a second time; the two cancel, and what is left
is shorter and has even counts again. -/
theorem checksum_of_even_counts (bs : List Byte) (even : ∀ b, bs.count b % 2 = 0) : checksum bs = 0x00#8 := by
  match bs with
  | [] => rfl
  | b :: cs =>
    have again : b ∈ cs := by
      have count : (cs.count b + 1) % 2 = 0 := List.count_cons_self (a := b) ▸ even b
      exact List.count_pos_iff.mp (by omega)
    have pair : (b :: cs).Perm (b :: b :: cs.erase b) := (List.perm_cons_erase again).cons b
    have shorter : (cs.erase b).length ≤ cs.length := List.erase_sublist.length_le
    have rest : ∀ c, (cs.erase b).count c % 2 = 0 := fun c => by
      have count : (b :: b :: cs.erase b).count c % 2 = 0 := pair.count_eq c ▸ even c
      simp only [List.count_cons] at count
      omega
    calc checksum (b :: cs) = checksum (b :: b :: cs.erase b) := checksum_perm pair
      _ = checksum (cs.erase b) := checksum_cons_cons_self b _
      _ = 0x00#8 := checksum_of_even_counts _ rest
termination_by bs.length
decreasing_by exact Nat.lt_succ_of_le shorter

/-- STX, LEN, CHK and ETX stand around the payload (R60, R83). -/
theorem frameBytes_length (p : Payload) : (frameBytes p).length = p.bytes.length + 4 := by
  simp [frameBytes]

/-- The empty payload leaves the frame's four own bytes, with LEN and CHK 0x00. -/
theorem frameBytes_of_empty {p : Payload} (h : p.bytes = []) :
    frameBytes p = [Config.stx, 0x00#8, 0x00#8, Config.etx] := by
  simp [frameBytes, payloadLen, h]

end Sys2Proof

namespace Sys2Proof.Machine

/-- CHECKSUM's result is the fold; it writes no register (R80). -/
theorem exec_checksum (bs : List Byte) (s : State) :
    exec (.checksum bs) s = .next (s.withResult (.checksum (Sys2Proof.checksum bs))) := rfl

/-- ENCODE_FRAME's result is the frame; it writes no register (R83). -/
theorem exec_encodeFrame (p : Payload) (s : State) :
    exec (.encodeFrame p) s = .next (s.withResult (.frame (frameBytes p))) := rfl

/-- Settles O18: the row's result is the fold, and the corner cases are laws of XOR: it commutes, and equal
bytes cancel. -/
theorem checksumOperation : Obligations.ChecksumOperation :=
  ⟨exec_checksum, checksum_nil, checksum_singleton, fun _ _ => checksum_perm, checksum_of_even_counts, by decide⟩

/-- Settles O20: the row's result is `frameBytes`; a payload of at most 255 bytes has its length in one byte. -/
theorem encodeFrameOperation : Obligations.EncodeFrameOperation :=
  ⟨exec_encodeFrame, frameBytes_length, fun p => ⟨p.short, payloadLen_toNat p⟩,
    fun _ => frameBytes_of_empty, fun p h => by simp [frameBytes, payloadLen, h]⟩

end Sys2Proof.Machine

namespace Sys2Proof.Machine

/-! ## The transitions of the decoder (41_decoder.md section 1)

Each transition of R90 as an equation of `decodeByte`, in the states and for the bytes that select it. -/

theorem decodeByte_awaitStart_stx {s : State} (hd : s.decState = .awaitStart) :
    decodeByte Config.stx s = .next (decOpen s) := by
  simp [decodeByte, hd]

theorem decodeByte_awaitStart_other {s : State} {b : Byte} (hd : s.decState = .awaitStart) (hb : b ≠ Config.stx) :
    decodeByte b s = .next (s, .inProgress) := by
  simp [decodeByte, hd, hb, decSkip]

theorem decodeByte_awaitLength_zero {s : State} (hd : s.decState = .awaitLength) :
    decodeByte 0#8 s = .next ({ s with rxLen := 0#8, decState := .awaitChecksum }, .inProgress) := by
  simp [decodeByte, hd, decLength]

theorem decodeByte_awaitLength_nonzero {s : State} {b : Byte} (hd : s.decState = .awaitLength) (hb : b ≠ 0#8) :
    decodeByte b s = .next ({ s with rxLen := b, decState := .awaitPayload }, .inProgress) := by
  simp [decodeByte, hd, hb, decLength]

/-- A length is one byte, so a count below it is an index of the buffer (R40). -/
theorem lt_bufCap_of_lt_length {c len : Byte} (h : c.toNat < len.toNat) : c.toNat < Config.bufCap := by
  have := len.isLt
  simp only [Config.bufCap]
  omega

/-- A byte of any value is stored, as long as the count is an index of the buffer. -/
theorem decodeByte_awaitPayload {s : State} (b : Byte) (hd : s.decState = .awaitPayload)
    (hc : s.rxCount.toNat < Config.bufCap) :
    decodeByte b s = .next ({ s with
      rxBuf := s.rxBuf.write s.rxCount.toNat b
      rxChk := s.rxChk ^^^ b
      decState := if s.rxCount.toNat + 1 = s.rxLen.toNat then .awaitChecksum else .awaitPayload
      rxCount := s.rxCount + 1#8
      rxWritten := max s.rxWritten (s.rxCount.toNat + 1) }, .inProgress) := by
  have hw : bufWrite s.rxBuf s.rxCount b = .next (s.rxBuf.write s.rxCount.toNat b) := bufWrite_next.mpr ⟨hc, rfl⟩
  simp [decodeByte, hd, decStore, hw]

theorem decodeByte_awaitChecksum_match {s : State} {b : Byte} (hd : s.decState = .awaitChecksum)
    (hb : b = s.rxChk) : decodeByte b s = .next ({ s with decState := .awaitEnd }, .inProgress) := by
  simp [decodeByte, hd, hb, decChecked]

theorem decodeByte_awaitChecksum_mismatch {s : State} {b : Byte} (hd : s.decState = .awaitChecksum)
    (hb : b ≠ s.rxChk) :
    decodeByte b s = .next ({ s with decState := .awaitStart }, .error .checksumMismatch) := by
  simp [decodeByte, hd, hb, raiseError]

theorem decodeByte_awaitEnd_etx {s : State} {bs : List Byte} (hd : s.decState = .awaitEnd)
    (hbs : s.rxBuf.slice s.rxLen.toNat = some bs) :
    decodeByte Config.etx s =
      .next ({ s with decState := .awaitStart, delivered := true }, .ok bs s.rxLen) := by
  simp [decodeByte, hd, decDeliver, bufPayload_next.mpr hbs]

theorem decodeByte_awaitEnd_other {s : State} {b : Byte} (hd : s.decState = .awaitEnd) (hb : b ≠ Config.etx) :
    decodeByte b s = .next ({ s with decState := .awaitStart }, .error .framingError) := by
  simp [decodeByte, hd, hb, raiseError]

/-! ## The row that `dec_state`, `rx_chk` and the byte select (R72, R100) -/

theorem whenSelected_of_true {c : Bool} (o : Outcome State) (hc : c = true) : whenSelected c o = o :=
  if_pos hc

/-- DECODE_STEP is the row that the state selects for the byte. -/
theorem exec_decodeStep_selectedDecRow (s : State) (b : Byte) :
    exec (.decodeStep b) s = exec (selectedDecRow s b) s := by
  simp only [exec, execDecodeStep, decodeByte, selectedDecRow, decRow]
  cases hd : s.decState <;> simp only
  case awaitStart =>
    by_cases hb : b = Config.stx <;> simp [hd, hb, execDecStartStx, execDecStartSkip, whenSelected_of_true]
  case awaitLength =>
    by_cases hb : b = 0#8 <;> simp [hd, hb, execDecLenZero, execDecLenNonzero, whenSelected_of_true]
  case awaitPayload => simp [hd, execDecPayload]
  case awaitChecksum =>
    by_cases hb : b = s.rxChk <;> simp [hd, hb, execDecChkMatch, execDecChkMismatch, whenSelected_of_true]
  case awaitEnd =>
    by_cases hb : b = Config.etx <;> simp [hd, hb, execDecEndEtx, execDecEndBad, whenSelected_of_true]

/-- The rows of the decoder's space with one byte are told apart by what the space carries. -/
theorem selectedDecRow_unique {s : State} {b : Byte} {i : Instr} (hi : i.inSpace (decSpace s) = true)
    (he : encode i = [b]) : i = selectedDecRow s b := by
  cases i <;> simp only [Instr.inSpace, decSpace, reduceCtorEq, Bool.false_eq_true, Bool.and_eq_true, beq_iff_eq,
    bne_iff_ne, ne_eq] at hi
  all_goals
    cases he
    simp [selectedDecRow, decRow, hi]

/-- A decoder row in a state that selects it answers the transition of its byte, and so does DECODE_STEP. -/
theorem exec_decRow_eq {i : Instr} {s t : State} {b : Byte} {r : DecResult}
    (hi : i.inSpace (decSpace s) = true) (he : encode i = [b]) (h : decodeByte b s = .next (t, r)) :
    exec i s = .next (t.withResult (.decoder r)) ∧ exec (.decodeStep b) s = exec i s := by
  have hrow : exec (.decodeStep b) s = exec i s := by
    rw [selectedDecRow_unique hi he, exec_decodeStep_selectedDecRow]
  have hstep : exec (.decodeStep b) s = .next (t.withResult (.decoder r)) := report_eq_next.mpr ⟨t, r, h, rfl⟩
  exact ⟨hrow ▸ hstep, hrow⟩

/-! ## ETX delivers the payload (R97) -/

/-- What the host reads of a delivered payload is the same before and after. -/
structure PayloadKept (s t : State) : Prop where
  rxLen : t.rxLen = s.rxLen
  rxBuf : t.rxBuf = s.rxBuf
  delivered : t.delivered = s.delivered

theorem PayloadKept.refl (s : State) : PayloadKept s s := ⟨rfl, rfl, rfl⟩

theorem PayloadKept.trans {s t u : State} (f : PayloadKept s t) (g : PayloadKept t u) : PayloadKept s u :=
  ⟨g.rxLen.trans f.rxLen, g.rxBuf.trans f.rxBuf, g.delivered.trans f.delivered⟩

theorem PayloadKept.hostView_payload {s t : State} (f : PayloadKept s t) :
    (hostView t).payload = (hostView s).payload := by
  simp only [hostView, f.rxLen, f.rxBuf, f.delivered]

/-- After an `Ok` the host reads `rx_buf[0..rx_len)` as the payload. -/
theorem hostView_payload_of_delivered {s : State} (h : s.delivered = true) :
    (hostView s).payload = s.rxBuf.slice s.rxLen.toNat := by
  simp [hostView, h]

theorem PayloadKept.withResult {s t : State} (f : PayloadKept s t) (r : OpResult) :
    PayloadKept s (t.withResult r) :=
  ⟨f.rxLen, f.rxBuf, f.delivered⟩

theorem TransmitterFrame.payloadKept {s t : State} (f : TransmitterFrame s t) : PayloadKept s t :=
  ⟨f.rxLen, f.rxBuf, f.delivered⟩

/-- The only transition from `AwaitStart` to `AwaitStart` discards its byte (R92). -/
theorem decodeByte_stays_awaitStart {b : Byte} {s t : State} {r : DecResult} (h : decodeByte b s = .next (t, r))
    (hs : s.decState = .awaitStart) (ht : t.decState = .awaitStart) : t = s := by
  by_cases hb : b = Config.stx
  · subst hb
    rw [decodeByte_awaitStart_stx hs] at h
    cases h
    cases ht
  · rw [decodeByte_awaitStart_other hs hb] at h
    cases h
    rfl

theorem receiverStep_payloadKept {s t : State} {r : RxResult} {ackOut : Bool}
    (h : receiverStep s = .next (t, r, ackOut)) (hs : s.decState = .awaitStart) (ht : t.decState = .awaitStart) :
    PayloadKept s t := by
  rcases receiverStep_cases h with ⟨_, _, _, rfl⟩ | ⟨b, u, d, _, hd, _, h⟩
  · exact .refl _
  · rcases h with ⟨_, _, _, _, rfl⟩ | ⟨_, _, rfl⟩ <;>
      obtain rfl := decodeByte_stays_awaitStart hd hs ht <;> exact ⟨rfl, rfl, rfl⟩

theorem receiverPart_payloadKept {rxEn : Bool} {s t : State} {r : RxResult} {ackOut : Bool}
    (h : receiverPart rxEn s = .next (t, r, ackOut)) (hs : s.decState = .awaitStart) (ht : t.decState = .awaitStart) :
    PayloadKept s t := by
  cases rxEn with
  | false => cases h; exact .refl s
  | true => exact receiverStep_payloadKept h hs ht

/-- Only RESET and a whole frame can replace the payload and leave the decoder in `AwaitStart`: every other row
is at most one decoder step. -/
theorem exec_payloadKept {i : Instr} {s t : State} (h : exec i s = .next t) (hreset : i ≠ .reset)
    (hframe : ∀ p, i ≠ .frame p) (hs : s.decState = .awaitStart) (ht : t.decState = .awaitStart) :
    PayloadKept s t := by
  cases exec_effect h with
  | decoder b u r row run next =>
    subst next
    obtain rfl := decodeByte_stays_awaitStart run hs ht
    exact (PayloadKept.refl _).withResult _
  | frame p u rs row run next => exact absurd row (hframe p)
  | transmitter u r row run next => subst next; exact (transmitterStep_frameFields run).payloadKept.withResult _
  | receiver u r ackOut row run next => subst next; exact (receiverStep_payloadKept run hs ht).withResult _
  | tick rxEn s1 s2 tx rx ackOut row transmitter receiver next =>
    have f := transmitterStep_frameFields transmitter
    have e1 : PayloadKept s s1 := ⟨f.rxLen, f.rxBuf, f.delivered⟩
    have h2 : s2.decState = .awaitStart := by cases ackOut <;> simpa [next] using ht
    have e2 : PayloadKept s1 s2 := receiverPart_payloadKept receiver (f.decState.trans hs) h2
    have e3 : PayloadKept s2 t := by cases ackOut <;> subst next <;> exact ⟨rfl, rfl, rfl⟩
    exact (e1.trans e2).trans e3
  | start p row idle next => subst next; exact ⟨rfl, rfl, rfl⟩
  | returns r row quiet next => subst next; exact ⟨rfl, rfl, rfl⟩
  | reset row next => exact absurd row hreset
  | ack row next => subst next; exact ⟨rfl, rfl, rfl⟩
  | ackWrite bs n row next => subst next; exact ⟨rfl, rfl, rfl⟩
  | handoff row next =>
    subst next
    rcases handoff_cases s with ⟨_, e⟩ | ⟨_, e⟩ <;> rw [e] <;> exact ⟨rfl, rfl, rfl⟩

/-- Settles O25: the ETX transition delivers `rx_buf[0..rx_len)`, and a row other than RESET and FRAME that stays
in `AwaitStart` keeps what the host reads of it. -/
theorem etxDeliversThePayload : Obligations.EtxDeliversThePayload := by
  refine ⟨fun s bs hd hbs => ?_, fun i s t h hreset hframe hs ht => ?_⟩
  · obtain ⟨hrow, hstep⟩ := exec_decRow_eq (i := .decEndEtx) (by simp [Instr.inSpace, decSpace, hd]) rfl
      (decodeByte_awaitEnd_etx hd hbs)
    exact ⟨_, hrow, rfl, (hostView_payload_of_delivered rfl).trans hbs, slice_length hbs, hstep.trans hrow⟩
  · have kept := exec_payloadKept h hreset hframe hs ht
    exact ⟨kept.rxLen, kept.rxBuf, kept.hostView_payload⟩

/-! ## DECODE_STEP (R100, R101) -/

/-- A decoder step neither reads nor writes the slot (R100). -/
theorem decodeByte_channel {b : Byte} {s t : State} {r : DecResult} (h : decodeByte b s = .next (t, r))
    (ch : Option Byte) : decodeByte b { s with channel := ch } = .next ({ t with channel := ch }, r) := by
  have f := decodeByte_frameFields h
  have other := decodeByte_other b s s.txPhase s.txIdx s.txLen s.txChk s.txBuf s.retxCount s.deadline s.tick
    s.ackReceived ch s.timeout s.port s.result
  rw [h, andThen_next] at other
  simpa only [← f.txPhase, ← f.txIdx, ← f.txLen, ← f.txChk, ← f.txBuf, ← f.retxCount, ← f.deadline, ← f.tick,
    ← f.ackReceived, ← f.timeout, ← f.port, ← f.result] using other

/-- The invariant rules out both faults (R16, R47): the count is below a length of at most 255 while bytes are
stored, and in `AwaitEnd` all of `rx_buf[0..rx_len)` has values. -/
theorem decodeByte_completes {s : State} (b : Byte) (hs : DecoderInv s) :
    ∃ t r, decodeByte b s = .next (t, r) := by
  obtain ⟨-, -, hpayload, hall, hchk, -⟩ := hs
  cases hd : s.decState with
  | awaitStart =>
    by_cases hb : b = Config.stx
    · exact ⟨_, _, hb ▸ decodeByte_awaitStart_stx hd⟩
    · exact ⟨_, _, decodeByte_awaitStart_other hd hb⟩
  | awaitLength =>
    by_cases hb : b = 0#8
    · exact ⟨_, _, hb ▸ decodeByte_awaitLength_zero hd⟩
    · exact ⟨_, _, decodeByte_awaitLength_nonzero hd hb⟩
  | awaitPayload =>
    have hc : s.rxCount.toNat < Config.bufCap := lt_bufCap_of_lt_length (hpayload hd)
    exact ⟨_, _, decodeByte_awaitPayload b hd hc⟩
  | awaitChecksum =>
    by_cases hb : b = s.rxChk
    · exact ⟨_, _, decodeByte_awaitChecksum_match hd hb⟩
    · exact ⟨_, _, decodeByte_awaitChecksum_mismatch hd hb⟩
  | awaitEnd =>
    by_cases hb : b = Config.etx
    · obtain ⟨bs, hbs, _⟩ := Option.map_eq_some_iff.mp hchk
      have hlen : s.rxCount = s.rxLen := hall (by simp [hd])
      exact ⟨_, _, hb ▸ decodeByte_awaitEnd_etx hd (hlen ▸ hbs)⟩
    · exact ⟨_, _, decodeByte_awaitEnd_other hd hb⟩

/-- Settles O27: DECODE_STEP's frame, its independence of the channel and its completion are those of the
decoder step. -/
theorem decodeStepIsTheSelectedRow : Obligations.DecodeStepIsTheSelectedRow := by
  refine ⟨exec_decodeStep_selectedDecRow, fun s b i => selectedDecRow_unique, fun s b t h => ?_, fun s b hs => ?_⟩
  · obtain ⟨u, r, run, rfl⟩ := report_eq_next.mp h
    exact ⟨congrArg (·.withResult (.decoder r)) (decodeByte_frame run),
      fun ch => report_eq_next.mpr ⟨_, r, decodeByte_channel run ch, rfl⟩⟩
  · obtain ⟨t, r, run⟩ := decodeByte_completes b hs
    exact ⟨_, r, report_eq_next.mpr ⟨t, r, run, rfl⟩, rfl⟩

/-- Settles O28: the result of each of the eight transitions. -/
theorem decoderResultContract : Obligations.DecoderResultContract := by
  intro s b t h
  obtain ⟨u, r, run, rfl⟩ := report_eq_next.mp h
  refine ⟨r, rfl, ?_⟩
  rcases decodeByte_cases run with
    ⟨hd, hb, rfl, rfl⟩ | ⟨hd, hb, rfl, rfl⟩ | ⟨hd, rfl, rfl⟩ | ⟨hd, _, rfl, rfl⟩ | ⟨hd, hb, rfl, rfl⟩ |
    ⟨hd, hb, rfl, rfl⟩ | ⟨hd, hb, ⟨bs, _, rfl⟩, rfl⟩ | ⟨hd, hb, rfl, rfl⟩ <;> simp [*]

/-! ## One byte in each state (R91 to R98) -/

/-- Settles O21: in `AwaitStart` the two rows are told apart by STX. -/
theorem awaitStartByte : Obligations.AwaitStartByte := by
  intro s hd
  obtain ⟨hrow, hstep⟩ := exec_decRow_eq (i := .decStartStx) (by simp [Instr.inSpace, decSpace, hd]) rfl
    (decodeByte_awaitStart_stx hd)
  exact ⟨⟨false, hrow⟩, hstep, fun b hb => exec_decRow_eq (by simp [Instr.inSpace, decSpace, hd, hb]) rfl
    (decodeByte_awaitStart_other hd hb)⟩

/-- Settles O22: in `AwaitLength` the two rows are told apart by the zero length. -/
theorem lengthByte : Obligations.LengthByte := by
  intro s hd
  obtain ⟨hrow, hstep⟩ := exec_decRow_eq (i := .decLenZero) (by simp [Instr.inSpace, decSpace, hd]) rfl
    (decodeByte_awaitLength_zero hd)
  exact ⟨hrow, hstep, fun b hb => exec_decRow_eq (by simp [Instr.inSpace, decSpace, hd, hb]) rfl
    (decodeByte_awaitLength_nonzero hd hb)⟩

/-- Settles O23: a count below `rx_len` is an index of the buffer and does not wrap. -/
theorem payloadByte : Obligations.PayloadByte := by
  intro s b hd hc
  have hlt : s.rxCount.toNat < Config.bufCap := lt_bufCap_of_lt_length hc
  obtain ⟨hrow, hstep⟩ := exec_decRow_eq (i := .decPayload b) (by simp [Instr.inSpace, decSpace, hd]) rfl
    (decodeByte_awaitPayload b hd hlt)
  have hsucc : (s.rxCount + 1#8).toNat = s.rxCount.toNat + 1 := by simp only [Config.bufCap] at hlt; bv_omega
  exact ⟨⟨_, _, hrow, read_write_same _ _ _, fun a ha => read_write_other _ b ha⟩, hsucc, hstep⟩

/-- Settles O24: in `AwaitChecksum` the two rows are told apart by `rx_chk`. -/
theorem checksumByte : Obligations.ChecksumByte := by
  intro s b hd
  exact ⟨fun hb => exec_decRow_eq (by simp [Instr.inSpace, decSpace, hd, hb]) rfl
      (decodeByte_awaitChecksum_match hd hb),
    fun hb => exec_decRow_eq (by simp [Instr.inSpace, decSpace, hd, hb]) rfl
      (decodeByte_awaitChecksum_mismatch hd hb)⟩

/-- Settles O26: every byte but ETX, STX among them, selects DEC.END.BAD. -/
theorem badTerminator : Obligations.BadTerminator := by
  intro s b hd hb
  exact exec_decRow_eq (by simp [Instr.inSpace, decSpace, hd, hb]) rfl (decodeByte_awaitEnd_other hd hb)

end Sys2Proof.Machine

namespace Sys2Proof.Machine

/-! ## The transitions of the transmitter (42_transmitter.md section 2)

Each row of R112 as an equation of `transmitterStep`, in the states that select it. -/

theorem transmitterStep_idle {s : State} (hp : s.txPhase = .idle) : transmitterStep s = .next (s, .idle) := by
  simp [transmitterStep, hp, txStepIdle]

theorem transmitterStep_sendStart {s : State} (hp : s.txPhase = .sendStart) :
    transmitterStep s = .next ({ s with channel := some Config.stx, txPhase := .sendLength }, .pending) := by
  simp [transmitterStep, hp, txStepStart, chWrite]

theorem transmitterStep_sendLength_zero {s : State} (hp : s.txPhase = .sendLength) (hl : s.txLen = 0#8) :
    transmitterStep s = .next ({ s with channel := some s.txLen, txPhase := .sendChecksum }, .pending) := by
  simp [transmitterStep, hp, txStepLength, hl, chWrite]

theorem transmitterStep_sendLength_nonzero {s : State} (hp : s.txPhase = .sendLength) (hl : s.txLen ≠ 0#8) :
    transmitterStep s =
      .next ({ s with channel := some s.txLen, txIdx := 0#8, txPhase := .sendPayload }, .pending) := by
  simp [transmitterStep, hp, txStepLength, hl, chWrite]

/-- The byte goes out, as long as its index is one of the buffer and it has a value. -/
theorem transmitterStep_sendPayload {s : State} {b : Byte} (hp : s.txPhase = .sendPayload)
    (hi : s.txIdx.toNat < Config.bufCap) (hb : s.txBuf.read s.txIdx.toNat = some b) :
    transmitterStep s = .next ({ s with
      channel := some b
      txPhase := if s.txIdx.toNat + 1 = s.txLen.toNat then .sendChecksum else .sendPayload
      txIdx := s.txIdx + 1#8 }, .pending) := by
  have hr : bufRead s.txBuf s.txIdx = .next b := bufRead_next.mpr ⟨hi, hb⟩
  simp [transmitterStep, hp, txStepPayload, hr, chWrite]

theorem transmitterStep_sendChecksum {s : State} (hp : s.txPhase = .sendChecksum) :
    transmitterStep s = .next ({ s with channel := some s.txChk, txPhase := .sendEnd }, .pending) := by
  simp [transmitterStep, hp, txStepChecksum, chWrite]

theorem transmitterStep_sendEnd {s : State} (hp : s.txPhase = .sendEnd) :
    transmitterStep s = .next ({ s with
      channel := some Config.etx, deadline := s.tick + s.timeout, txPhase := .awaitAck }, .pending) := by
  simp [transmitterStep, hp, txStepEnd, chWrite]

theorem transmitterStep_acked {s : State} (hp : s.txPhase = .awaitAck) (ha : s.ackReceived = true) :
    transmitterStep s = .next ({ s with ackReceived := false, txPhase := .idle }, .sent) := by
  simp [transmitterStep, hp, ha, txStepAcked]

theorem transmitterStep_timeout {s : State} (hp : s.txPhase = .awaitAck) (ha : s.ackReceived = false)
    (hd : s.deadline ≤ s.tick) :
    transmitterStep s = .next ({ s with
      retxCount := s.retxCount + 1, channel := some Config.stx, txPhase := .sendLength }, .pending) := by
  simp [transmitterStep, hp, ha, ackDue, hd, takeAckTimeout, chWrite]

theorem transmitterStep_wait {s : State} (hp : s.txPhase = .awaitAck) (ha : s.ackReceived = false)
    (hd : s.tick < s.deadline) : transmitterStep s = .next (s, .pending) := by
  simp [transmitterStep, hp, ha, ackDue, hd, txStepWait]

/-! ## The selected row, phase by phase (R72, R119, R120) -/

/-- Outside `AwaitAck` the phase alone decides. -/
theorem selectedTxRow_of_txPhase {s : State} {p : TxPhase} (hp : s.txPhase = p) :
    selectedTxRow s = txRow p s.ackReceived (ackDue s) := by
  rw [selectedTxRow, hp]

theorem selectedTxRow_timeout {s : State} (hp : s.txPhase = .awaitAck) (ha : s.ackReceived = false)
    (hd : s.deadline ≤ s.tick) : selectedTxRow s = .txAwaitAckTimeout := by
  simp [selectedTxRow, txRow, hp, ha, ackDue, hd]

theorem selectedTxRow_wait {s : State} (hp : s.txPhase = .awaitAck) (ha : s.ackReceived = false)
    (hd : s.tick < s.deadline) : selectedTxRow s = .txAwaitAckWait := by
  simp [selectedTxRow, txRow, hp, ha, ackDue, hd]

/-- Without an acknowledgment the deadline alone decides: at its own tick already, the step is a timeout. -/
theorem selectedTxRow_eq_timeout_iff {s : State} (hp : s.txPhase = .awaitAck) (ha : s.ackReceived = false) :
    selectedTxRow s = .txAwaitAckTimeout ↔ s.deadline ≤ s.tick := by
  refine ⟨fun h => Nat.not_lt.mp fun hd => ?_, selectedTxRow_timeout hp ha⟩
  cases (selectedTxRow_wait hp ha hd).symm.trans h

/-- A transmitter row that the state selects answers the transmitter step. -/
theorem exec_txRow_eq {i : Instr} {s t : State} {r : TxResult} (hi : selectedTxRow s = i)
    (h : transmitterStep s = .next (t, r)) : exec i s = .next (t.withResult (.transmitter r)) := by
  rw [← hi, exec_selectedTxRow, h, report_next]

/-! ## Where a transmitter step can lead -/

/-- No transmitter step begins a session: the STX of a retransmission is emitted by the timeout itself
(R113, R119). -/
theorem transmitterStep_txPhase_ne_sendStart {s t : State} {r : TxResult}
    (h : transmitterStep s = .next (t, r)) : t.txPhase ≠ .sendStart := by
  rcases transmitterStep_cases h with
    ⟨hp, _, rfl⟩ | ⟨_, _, rfl⟩ | ⟨_, _, _, rfl⟩ | ⟨_, _, _, rfl⟩ | ⟨_, _, _, _, _, rfl⟩ | ⟨_, _, rfl⟩ |
    ⟨_, _, rfl⟩ | ⟨_, _, _, rfl⟩ | ⟨_, _, _, _, rfl⟩ | ⟨hp, _, _, _, rfl⟩ <;> simp [*, ite_eq_iff]

/-- Nor does one end a session whose acknowledgment has not been seen (R118). -/
theorem transmitterStep_txPhase_ne_idle {s t : State} {r : TxResult} (h : transmitterStep s = .next (t, r))
    (hs : s.txPhase ≠ .idle) (ha : s.ackReceived = false) : t.txPhase ≠ .idle := by
  rcases transmitterStep_cases h with
    ⟨hp, _⟩ | ⟨_, _, rfl⟩ | ⟨_, _, _, rfl⟩ | ⟨_, _, _, rfl⟩ | ⟨_, _, _, _, _, rfl⟩ | ⟨_, _, rfl⟩ |
    ⟨_, _, rfl⟩ | ⟨_, seen, _⟩ | ⟨_, _, _, _, rfl⟩ | ⟨_, _, _, _, rfl⟩
  · exact absurd hp hs
  · simp
  · simp
  · simp
  · simp [ite_eq_iff]
  · simp
  · simp
  · simp [ha] at seen
  · simp
  · exact hs

/-- Of the table of R112, the acknowledged row alone returns `Sent` (R118). -/
theorem transmitterStep_sent {s t : State} (h : transmitterStep s = .next (t, .sent)) :
    s.txPhase = .awaitAck ∧ s.ackReceived = true ∧ t.txPhase = .idle := by
  rcases transmitterStep_cases h with
    ⟨_, ⟨⟩, _⟩ | ⟨_, ⟨⟩, _⟩ | ⟨_, _, ⟨⟩, _⟩ | ⟨_, _, ⟨⟩, _⟩ | ⟨_, _, ⟨⟩, _⟩ | ⟨_, ⟨⟩, _⟩ | ⟨_, ⟨⟩, _⟩ |
    ⟨hp, ha, _, rfl⟩ | ⟨_, _, _, ⟨⟩, _⟩ | ⟨_, _, _, ⟨⟩, _⟩
  exact ⟨hp, ha, rfl⟩

/-! ## START_SEND (R110, R111) -/

theorem exec_startSend_idle {p : Payload} {s : State} (hp : s.txPhase = .idle) :
    exec (.startSend p) s = .next ((startAccepted p s).1.withResult (.start .accepted)) := by
  simp [exec, execStartSend, startSend, sessionIdle, hp, startAccepted]

theorem exec_startSend_busy {p : Payload} {s : State} (hp : s.txPhase ≠ .idle) :
    exec (.startSend p) s = .next (s.withResult (.start .busy)) := by
  simp [exec, execStartSend, startSend, sessionIdle, hp, startBusy]

theorem exec_startSendBusy {p : Payload} {s : State} (hp : s.txPhase ≠ .idle) :
    exec (.startSendBusy p) s = .next (s.withResult (.start .busy)) :=
  whenSelected_of_true _ (by simp [sessionIdle, hp])

/-- A row that takes an unacknowledged session to `Idle` is RESET: the transmitter needs the acknowledgment,
also inside a TICK, and START_SEND is accepted in `Idle` only. -/
theorem onlyResetEndsASession : OnlyResetEndsASession := by
  intro i s t _ hs ha h ht
  cases exec_sessionEffect h with
  | reset row next => exact row
  | start p row idle frame => exact absurd idle hs
  | transmitter u r row run frame | tick rxEn u r row run frame =>
    exact absurd (frame.txPhase.symm.trans ht) (transmitterStep_txPhase_ne_idle run hs ha)
  | leaves row frame => exact absurd (frame.txPhase.symm.trans ht) hs

/-- Settles O33: both rows return only, and RESET alone ends an unacknowledged session. -/
theorem startSendBusy : Obligations.StartSendBusy :=
  ⟨fun _ _ hp => ⟨exec_startSendBusy hp, exec_startSend_busy hp⟩, onlyResetEndsASession⟩

/-- Settles O32: the payload is loaded from index 0, and a load writes its own indexes only. -/
theorem startSendAccepted : Obligations.StartSendAccepted := by
  intro p s hp
  refine ⟨s.txBuf.load 0 p.bytes, exec_startSend_idle hp, load_slice_zero _ _, fun a ha => ?_⟩
  exact read_load_outside _ _ (.inr (by omega))

/-! ## The phases (R113 to R117) -/

/-- Settles O34: of the rows that write `tx_phase`, an accepted START_SEND alone writes `SendStart`. -/
theorem sendStartPhase : Obligations.SendStartPhase := by
  refine ⟨fun s hp => ?_, fun i s t h ht => ?_⟩
  · exact exec_txRow_eq (selectedTxRow_of_txPhase hp) (transmitterStep_sendStart hp)
  · cases exec_sessionEffect h with
    | reset row next => subst next; cases ht
    | start p row idle frame => exact .inr ⟨p, row, idle⟩
    | transmitter u r row run frame | tick rxEn u r row run frame =>
      exact absurd (frame.txPhase.symm.trans ht) (transmitterStep_txPhase_ne_sendStart run)
    | leaves row frame => exact .inl (frame.txPhase.symm.trans ht)

/-- Settles O35: the two cases are told apart by the zero length. -/
theorem sendLengthPhase : Obligations.SendLengthPhase := by
  intro s hp
  have hrow : selectedTxRow s = .txSendLength := selectedTxRow_of_txPhase hp
  exact ⟨fun hl => exec_txRow_eq hrow (transmitterStep_sendLength_zero hp hl),
    fun hl => exec_txRow_eq hrow (transmitterStep_sendLength_nonzero hp hl)⟩

/-- Settles O36: an index below `tx_len` is one of the buffer and does not wrap. -/
theorem sendPayloadPhase : Obligations.SendPayloadPhase := by
  intro s b hp hi hb
  have hlt : s.txIdx.toNat < Config.bufCap := lt_bufCap_of_lt_length hi
  have hsucc : (s.txIdx + 1#8).toNat = s.txIdx.toNat + 1 := by simp only [Config.bufCap] at hlt; bv_omega
  exact ⟨exec_txRow_eq (selectedTxRow_of_txPhase hp) (transmitterStep_sendPayload hp hlt hb), hsucc⟩

theorem exec_txSendEnd {s : State} (hp : s.txPhase = .sendEnd) :
    exec .txSendEnd s = .next { s with
      channel := some Config.etx, deadline := s.tick + s.timeout, txPhase := .awaitAck
      result := .transmitter .pending } :=
  exec_txRow_eq (selectedTxRow_of_txPhase hp) (transmitterStep_sendEnd hp)

/-- Settles O37: neither phase has a condition beside its own. -/
theorem sendChecksumAndEndPhases : Obligations.SendChecksumAndEndPhases :=
  ⟨fun _ hp => exec_txRow_eq (selectedTxRow_of_txPhase hp) (transmitterStep_sendChecksum hp),
    fun _ => exec_txSendEnd⟩

/-! ## Waiting for the acknowledgment (R118 to R121) -/

/-- Settles O38: the row is selected before the deadline is looked at. -/
theorem acknowledgmentEndsTheSession : Obligations.AcknowledgmentEndsTheSession := by
  intro s hp ha
  have hrow := selectedTxRow_acked hp ha
  exact ⟨exec_txRow_eq hrow (transmitterStep_acked hp ha), hrow⟩

/-- Settles O39: after the ETX of tick `t_e` the deadline is `t_e + TIMEOUT`, and a later tick is at least
`t_e + 1`. -/
theorem timeoutRetransmits : Obligations.TimeoutRetransmits := by
  refine ⟨fun s hp ha hd => ?_, fun s t τ hp h hτ => ?_⟩
  · have hrow := selectedTxRow_timeout hp ha hd
    exact ⟨exec_txRow_eq hrow (transmitterStep_timeout hp ha hd), hrow⟩
  · rw [exec_txSendEnd hp] at h
    cases h
    rw [selectedTxRow_eq_timeout_iff rfl rfl]
    dsimp only
    omega

/-- A row that returns the transmitter's `Sent` is the acknowledging one. -/
theorem exec_sent {i : Instr} {s t : State} (h : exec i s = .next t) (hr : t.result = .transmitter .sent) :
    i = .txAwaitAckAck := by
  cases exec_effect h with
  | transmitter u r row run next =>
    obtain rfl : r = .sent := by simpa [next] using hr
    obtain ⟨hp, ha, _⟩ := transmitterStep_sent run
    exact row.trans (selectedTxRow_acked hp ha)
  | tick rxEn s1 s2 tx rx ackOut row transmitter receiver next => cases ackOut <;> simp [next] at hr
  | returns r row quiet next => exact absurd (by simpa [next] using hr) (quiet .sent)
  | decoder b u r row run next | frame p u rs row run next | receiver u r ackOut row run next
  | start p row idle next | ackWrite bs n row next | handoff row next | ack row next => simp [next] at hr
  | reset row next => subst next; cases hr

/-- Settles O40: `Sent` is the transmitter step's on the acknowledgment, as a row or inside a TICK. -/
theorem waitAndIdleWriteNothing : Obligations.WaitAndIdleWriteNothing := by
  refine ⟨fun s hp ha hd => ?_, fun s hp => ?_, fun i s t => exec_sent, fun rxEn s t rx h hr => ?_⟩
  · have hrow := selectedTxRow_wait hp ha hd
    exact ⟨exec_txRow_eq hrow (transmitterStep_wait hp ha hd), hrow⟩
  · have hrow : selectedTxRow s = .txIdle := selectedTxRow_of_txPhase hp
    exact ⟨exec_txRow_eq hrow (transmitterStep_idle hp), hrow⟩
  · obtain ⟨u, run, frame⟩ := execTick_transmitter h hr
    obtain ⟨hp, ha, hu⟩ := transmitterStep_sent run
    exact ⟨hp, ha, frame.txPhase.trans hu⟩

end Sys2Proof.Machine

namespace Sys2Proof.Machine

/-! ## The receiver step (43_receiver.md section 1)

Each line of R130 as an equation of `receiverStep`. -/

theorem receiverStep_noByte {s : State} (hc : s.channel = none) : receiverStep s = .next (s, .noByte, false) := by
  simp [receiverStep, chRead, hc]

theorem receiverStep_byte {s u : State} {b : Byte} {d : DecResult} (hc : s.channel = some b)
    (run : decodeByte b (chClear s) = .next (u, d)) : receiverStep s = .next (afterDecode u d) := by
  simp [receiverStep, chRead, hc, run]

/-- Without an `Ok` there is no acknowledgment (R54(a)). -/
theorem afterDecode_of_not_ok {d : DecResult} (s : State) (hd : ∀ bs n, d ≠ .ok bs n) :
    afterDecode s d = (s, .decoded d, false) := by
  cases d with
  | ok bs n => exact absurd rfl (hd bs n)
  | inProgress => rfl
  | error c => rfl

/-- The decoder step is all that can fault, and it reads the invariant's registers only, not the slot. -/
theorem receiverStep_completes {s : State} (hs : DecoderInv s) :
    ∃ t r ackOut, receiverStep s = .next (t, r, ackOut) := by
  cases hc : s.channel with
  | none => exact ⟨s, _, _, receiverStep_noByte hc⟩
  | some b =>
    obtain ⟨t, r, run⟩ := decodeByte_completes b hs
    exact ⟨_, _, _, receiverStep_byte hc (decodeByte_channel run none)⟩

theorem exec_rxStep {s t : State} {r : RxResult} {ackOut : Bool} (run : receiverStep s = .next (t, r, ackOut)) :
    exec .rxStep s = .next (t.withResult (.receiver r ackOut)) :=
  report_eq_next.mpr ⟨t, (r, ackOut), run, rfl⟩

/-- Settles O44: on a byte, DECODE_STEP with the slot emptied is the receiver's decoder step, and only the
decoder's result decides what follows it. -/
theorem receiverStep_spec : Obligations.ReceiverStep := by
  refine ⟨fun s => rfl, rfl, fun s hc => exec_rxStep (receiverStep_noByte hc), fun s b u hc h => ?_, fun s hs => ?_⟩
  · obtain ⟨v, d, run, rfl⟩ := report_eq_next.mp h
    have step : receiverStep s = .next (afterDecode v d) := receiverStep_byte hc run
    refine ⟨fun bs n hr => ?_, fun r hr hd => ?_⟩
    · cases hr
      exact exec_rxStep step
    · cases hr
      rw [afterDecode_of_not_ok v hd] at step
      exact ⟨(decodeByte_frameFields run).channel, (exec_rxStep step).trans rfl⟩
  · obtain ⟨t, r, ackOut, run⟩ := receiverStep_completes hs
    exact ⟨_, r, ackOut, exec_rxStep run, rfl⟩

end Sys2Proof.Machine

namespace Sys2Proof.Machine

/-! ## TICK from its parts (44_scheduler.md R140)

`execTick_cases` takes a TICK apart; here its parts make one. -/

/-- The handoff's test is decided by the receiver: a raised `ack_out` comes with the ACK in the slot
(R131, R143). -/
theorem handoff_of_receiverPart {rxEn : Bool} {s t : State} {r : RxResult}
    (h : receiverPart rxEn s = .next (t, r, true)) :
    handoff t = { t with ackReceived := true, channel := none } := by
  obtain ⟨-, -, hack, -⟩ := receiverPart_cases h
  simp [handoff, chClear, hack rfl]

theorem execTick_of_parts {rxEn ackOut : Bool} {s u v : State} {tx : TxResult} {rx : RxResult}
    (htx : transmitterStep (tickIncrement s) = .next (u, tx)) (hrx : receiverPart rxEn u = .next (v, rx, ackOut)) :
    exec (.tick rxEn) s = .next
      (if ackOut then { v with ackReceived := true, channel := none, result := .tick tx rx }
        else v.withResult (.tick tx rx)) := by
  have body : tickBody rxEn s = .next (if ackOut then handoff v else v, tx, rx) := by
    simp only [tickBody, htx, hrx, andThen_next]
  refine report_eq_next.mpr ⟨_, _, body, ?_⟩
  cases ackOut with
  | false => rfl
  | true => simp [handoff_of_receiverPart hrx, State.withResult, tickResult]

/-- The receiver's part starts as well with another result on the wires: it does not read them. -/
theorem receiverPart_of_withResult {rxEn : Bool} {s t : State} {v : RxResult × Bool} {r : OpResult}
    (h : receiverPart rxEn (s.withResult r) = .next (t, v)) :
    receiverPart rxEn s = .next (t.withResult s.result, v) :=
  receiverPart_withResult (s := s.withResult r) s.result h

/-- Settles O47: the two rows are the tick's own parts, but that the receiver row starts with the
transmitter row's result on the wires. -/
theorem tickIsItsParts : Obligations.TickIsItsParts := by
  rintro rxEn s _ s2 tx s3 rx ackOut rfl htx rtx hrx rrx
  rw [exec_selectedTxRow] at htx
  rw [exec_rxRow] at hrx
  obtain ⟨u, _, runTx, rfl⟩ := report_eq_next.mp htx
  obtain ⟨v, _, runRx, rfl⟩ := report_eq_next.mp hrx
  cases rtx
  cases rrx
  exact (execTick_of_parts runTx (receiverPart_of_withResult runRx)).trans rfl

end Sys2Proof.Machine

namespace Sys2Proof.Machine

/-! ## RESET (R180) -/

/-- RESET has no condition on the state it is given in. -/
theorem exec_reset (s : State) : exec .reset s = .next (resetState s) := rfl

/-- Settles O2: `resetState` is the reset state with the four kept fields, and that no other host operation
ends an unacknowledged session is the inversion of the rows that write `tx_phase`. -/
theorem resetOperation : Obligations.ResetOperation :=
  ⟨exec_reset, onlyResetEndsASession⟩

end Sys2Proof.Machine

namespace Sys2Proof

/-! ## The encoding spaces (30_encoding.md): decode and encode are inverse to each other

One lemma for each operand that says exactly which bytes it is read from, and one for each space and direction. -/

/-- A byte with its five high bits clear is its three low bits. -/
theorem eq_setWidth_of_high_clear {c : Byte} (h : c.extractLsb' 3 5 = 0#5) : c = (c.extractLsb' 0 3).setWidth 8 := by
  have high : c.toNat / 8 % 32 = 0 := by
    simpa [Nat.shiftRight_eq_div_pow] using congrArg BitVec.toNat h
  apply BitVec.eq_of_toNat_eq
  simp only [BitVec.toNat_setWidth, BitVec.extractLsb'_toNat, Nat.shiftRight_zero]
  omega

theorem takePayload_eq_ok {bytes rest : List Byte} {p : Payload} :
    takePayload bytes = .ok (p, rest) ↔ bytes = lengthPrefixed p ++ rest := by
  refine ⟨fun h => ?_, fun h => h ▸ takePayload_lengthPrefixed p rest⟩
  cases bytes with
  | nil => simp [takePayload] at h
  | cons n bytes =>
    simp only [takePayload] at h
    split at h
    · simp at h
    · simp only [Except.ok.injEq, Prod.mk.injEq] at h
      obtain ⟨rfl, rfl⟩ := h
      have len : min n.toNat bytes.length = n.toNat := by omega
      simp [lengthPrefixed, payloadLen, len]

theorem takeFlagged_eq_ok {bytes rest bs : List Byte} :
    takeFlagged bytes = .ok (bs, rest) ↔ bytes = flagged bs ++ rest := by
  refine ⟨fun h => ?_, fun h => h ▸ takeFlagged_flagged bs rest⟩
  fun_induction takeFlagged bytes generalizing bs
  case case2 | case5 =>
    simp only [Except.ok.injEq, Prod.mk.injEq] at h
    obtain ⟨rfl, rfl⟩ := h
    rfl
  case case6 b tail cs after taken _ ih =>
    simp only [Except.ok.injEq, Prod.mk.injEq] at h
    obtain ⟨rfl, rfl⟩ := h
    simp [flagged, ih taken]
  all_goals simp at h

theorem takeByte_eq_ok {bytes rest : List Byte} {b : Byte} :
    takeByte bytes = .ok (b, rest) ↔ bytes = b :: rest := by
  cases bytes <;> simp [takeByte]

/-- A bit is the byte 1 or 0. -/
theorem takeBit_eq_ok {bytes rest : List Byte} {bit : Bool} :
    takeBit bytes = .ok (bit, rest) ↔ bytes = (if bit then 1#8 else 0#8) :: rest := by
  cases bytes with
  | nil => simp [takeBit]
  | cons b bytes =>
    by_cases h0 : b = 0#8
    · cases bit <;> simp [takeBit, h0]
    · by_cases h1 : b = 1#8 <;> cases bit <;> simp [takeBit, h0, h1]

/-! ### A row of a space is read back from its bytes -/

section Encode

variable {i : Instr} {idle a due : Bool} {d : DecState} {c : Byte} (rest : List Byte)

theorem decodeHostOp_encode (hi : i.inSpace (.hostOp idle) = true) :
    decodeHostOp idle (encode i ++ rest) = .ok (i, rest) := by
  cases i <;> simp only [Instr.inSpace, reduceCtorEq, Bool.false_eq_true, beq_iff_eq, Bool.not_eq_true'] at hi
  case tick rxEn => cases rxEn <;> simp [decodeHostOp, encode, takeBit, withOperand]
  all_goals
    simp [decodeHostOp, encode, withOperand, takePayload_lengthPrefixed, takeFlagged_flagged, takeByte, hi]

theorem decodeWireByte_encode (hi : i.inSpace .wireByte = true) :
    decodeWireByte (encode i ++ rest) = .ok (i, rest) := by
  cases i <;> simp only [Instr.inSpace, reduceCtorEq, Bool.false_eq_true, beq_iff_eq] at hi <;> rfl

/-- A frame is STX, the payload behind its length byte, and the two closing bytes. -/
theorem frameBytes_append (p : Payload) :
    frameBytes p ++ rest = Config.stx :: (lengthPrefixed p ++ checksum p.bytes :: Config.etx :: rest) := by
  simp [frameBytes, lengthPrefixed]

theorem decodeWireFrame_encode (hi : i.inSpace .wireFrame = true) :
    decodeWireFrame (encode i ++ rest) = .ok (i, rest) := by
  cases i <;> simp only [Instr.inSpace, reduceCtorEq, Bool.false_eq_true, beq_iff_eq] at hi
  simp [encode, frameBytes_append, decodeWireFrame, takePayload_lengthPrefixed]

/-- A decoder row of a space is the row that the space selects for its one byte. -/
theorem encode_decRow_of_inSpace (hi : i.inSpace (.decByte d c) = true) :
    ∃ b, encode i = [b] ∧ i = decRow d c b := by
  cases i <;> simp only [Instr.inSpace, reduceCtorEq, Bool.false_eq_true, Bool.and_eq_true, beq_iff_eq,
    bne_iff_ne, ne_eq] at hi
  all_goals exact ⟨_, rfl, by simp [decRow, hi]⟩

/-- A transmitter row of a space is the row that the space selects for its phase. -/
theorem encode_txRow_of_inSpace (hi : i.inSpace (.txStep a due) = true) :
    ∃ p : TxPhase, encode i = [p.ordinal.setWidth 8] ∧ i = txRow p a due := by
  cases i <;> simp only [Instr.inSpace, reduceCtorEq, Bool.false_eq_true, beq_iff_eq, Bool.and_eq_true,
    Bool.not_eq_true'] at hi
  all_goals exact ⟨_, rfl, by simp [txRow, hi]⟩

theorem decodeTxStep_ordinal (p : TxPhase) :
    decodeTxStep a due (p.ordinal.setWidth 8 :: rest) = .ok (txRow p a due, rest) := by
  cases p <;> rfl

theorem decodeWhenOne_one : decodeWhenOne i (1#8 :: rest) = .ok (i, rest) := by
  simp [decodeWhenOne]

/-- Whatever space a row belongs to, its bytes are read as the row. -/
theorem decodeIn_encode {sp : Space} (hi : i.inSpace sp = true) : decodeIn sp (encode i ++ rest) = .ok (i, rest) := by
  cases sp with
  | hostOp idle => exact decodeHostOp_encode rest hi
  | wireByte => exact decodeWireByte_encode rest hi
  | wireFrame => exact decodeWireFrame_encode rest hi
  | decByte d c =>
    obtain ⟨b, hb, hrow⟩ := encode_decRow_of_inSpace hi
    rw [hb, hrow]
    rfl
  | txStep a due =>
    obtain ⟨p, hp, hrow⟩ := encode_txRow_of_inSpace hi
    rw [hp, hrow]
    exact decodeTxStep_ordinal rest p
  | rxEnable | decoderResult | ackOut =>
    cases i <;> simp only [Instr.inSpace, reduceCtorEq, Bool.false_eq_true, beq_iff_eq] at hi <;> rfl

end Encode

/-- Settles O12: the row's condition is part of `inSpace`, so it is read back in every space that has it. -/
theorem decodeOfEncode : Obligations.DecodeOfEncode :=
  fun _ _ rest _ hi => decodeIn_encode rest hi

/-! ### What a space's decoder reads is a row of the space, and its bytes are those it was read from -/

section Decode

variable {i : Instr} {bytes rest : List Byte}

/-- The selector has no sixth and seventh value (R70): what is read begins with one of the six, and its operand is
what the operand's own decoder reads. -/
theorem encode_of_decodeHostOp {idle : Bool} (h : decodeHostOp idle bytes = .ok (i, rest)) :
    encode i ++ rest = bytes := by
  cases bytes with
  | nil => simp [decodeHostOp] at h
  | cons c bytes =>
    simp only [decodeHostOp] at h
    split at h
    · simp at h
    · next high =>
      have hc : c = (c.extractLsb' 0 3).setWidth 8 := eq_setWidth_of_high_clear (not_not.mp high)
      generalize c.extractLsb' 0 3 = selector at h hc
      have value {k : BitVec 3} (hk : selector.toNat = k.toNat) : c = k.setWidth 8 :=
        BitVec.eq_of_toNat_eq hk ▸ hc
      split at h
      case h_1 hk =>
        simp only [Except.ok.injEq, Prod.mk.injEq] at h
        obtain ⟨rfl, rfl⟩ := h
        rw [value (k := 0#3) hk]
        rfl
      case h_2 hk =>
        obtain ⟨p, hp, rfl⟩ := Machine.withOperand_ok.mp h
        rw [value (k := 1#3) hk, takePayload_eq_ok.mp hp]
        cases idle <;> rfl
      case h_3 hk =>
        obtain ⟨rxEn, hb, rfl⟩ := Machine.withOperand_ok.mp h
        rw [value (k := 2#3) hk, takeBit_eq_ok.mp hb]
        rfl
      case h_4 hk =>
        obtain ⟨b, hb, rfl⟩ := Machine.withOperand_ok.mp h
        rw [value (k := 3#3) hk, takeByte_eq_ok.mp hb]
        rfl
      case h_5 hk =>
        obtain ⟨bs, hbs, rfl⟩ := Machine.withOperand_ok.mp h
        rw [value (k := 4#3) hk, takeFlagged_eq_ok.mp hbs]
        rfl
      case h_6 hk =>
        obtain ⟨p, hp, rfl⟩ := Machine.withOperand_ok.mp h
        rw [value (k := 5#3) hk, takePayload_eq_ok.mp hp]
        rfl
      case h_7 => simp at h

theorem decodeWireByte_eq_ok (h : decodeWireByte bytes = .ok (i, rest)) :
    i.inSpace .wireByte = true ∧ encode i ++ rest = bytes := by
  cases bytes with
  | nil => simp [decodeWireByte] at h
  | cons b bytes =>
    simp only [decodeWireByte] at h
    split_ifs at h with hstx hetx hack <;> simp only [Except.ok.injEq, Prod.mk.injEq] at h
    all_goals
      obtain ⟨rfl, rfl⟩ := h
      exact ⟨rfl, by simp [encode, *]⟩

theorem decodeWireFrame_eq_ok (h : decodeWireFrame bytes = .ok (i, rest)) :
    i.inSpace .wireFrame = true ∧ encode i ++ rest = bytes := by
  cases bytes with
  | nil => simp [decodeWireFrame] at h
  | cons b bytes =>
    simp only [decodeWireFrame] at h
    split_ifs at h with hstx
    split at h
    case h_4 p chk etx after hp =>
      split_ifs at h with hchk hetx
      simp only [Except.ok.injEq, Prod.mk.injEq] at h
      obtain ⟨rfl, rfl⟩ := h
      refine ⟨rfl, ?_⟩
      rw [encode, frameBytes_append, takePayload_eq_ok.mp hp, not_not.mp hstx, not_not.mp hchk, not_not.mp hetx]
    all_goals simp at h

theorem decRow_inSpace (d : DecState) (c b : Byte) :
    (decRow d c b).inSpace (.decByte d c) = true ∧ encode (decRow d c b) = [b] := by
  fun_cases decRow d c b <;> simp_all [Instr.inSpace, encode]

theorem txRow_inSpace (p : TxPhase) (a due : Bool) :
    (txRow p a due).inSpace (.txStep a due) = true ∧ encode (txRow p a due) = [p.ordinal.setWidth 8] := by
  fun_cases txRow p a due <;> simp_all [Instr.inSpace, encode]

theorem rxRow_inSpace (rxEn : Bool) :
    (rxRow rxEn).inSpace .rxEnable = true ∧ encode (rxRow rxEn) = [if rxEn then 1#8 else 0#8] := by
  cases rxEn <;> exact ⟨rfl, rfl⟩

theorem ofOrdinal_eq_some {v : BitVec 3} {p : TxPhase} (h : TxPhase.ofOrdinal v = some p) : v = p.ordinal := by
  revert v p
  decide

theorem decodeTxStep_eq_ok {a due : Bool} (h : decodeTxStep a due bytes = .ok (i, rest)) :
    i.inSpace (.txStep a due) = true ∧ encode i ++ rest = bytes := by
  cases bytes with
  | nil => simp [decodeTxStep] at h
  | cons b bytes =>
    simp only [decodeTxStep] at h
    split_ifs at h with high
    split at h
    · next p hp =>
      simp only [Except.ok.injEq, Prod.mk.injEq] at h
      obtain ⟨rfl, rfl⟩ := h
      obtain ⟨hi, he⟩ := txRow_inSpace p a due
      have hb : b = p.ordinal.setWidth 8 := ofOrdinal_eq_some hp ▸ eq_setWidth_of_high_clear (not_not.mp high)
      exact ⟨hi, by rw [he, hb]; rfl⟩
    · simp at h

theorem decodeWhenOne_eq_ok {j : Instr} (h : decodeWhenOne j bytes = .ok (i, rest)) :
    i = j ∧ bytes = 1#8 :: rest := by
  cases bytes with
  | nil => simp [decodeWhenOne] at h
  | cons b bytes =>
    simp only [decodeWhenOne] at h
    split_ifs at h with hb
    simp only [Except.ok.injEq, Prod.mk.injEq] at h
    exact ⟨h.1.symm, by rw [hb, h.2]⟩

/-- What any space's decoder reads. -/
theorem decodeIn_eq_ok {sp : Space} (h : decodeIn sp bytes = .ok (i, rest)) :
    i.inSpace sp = true ∧ encode i ++ rest = bytes := by
  cases sp with
  | hostOp idle => exact ⟨Machine.decodeHostOp_inSpace h, encode_of_decodeHostOp h⟩
  | wireByte => exact decodeWireByte_eq_ok h
  | wireFrame => exact decodeWireFrame_eq_ok h
  | decByte d c =>
    obtain ⟨b, hb, rfl⟩ := Machine.withOperand_ok.mp h
    obtain ⟨hi, he⟩ := decRow_inSpace d c b
    exact ⟨hi, by rw [he, takeByte_eq_ok.mp hb]; rfl⟩
  | txStep a due => exact decodeTxStep_eq_ok h
  | rxEnable =>
    obtain ⟨rxEn, hb, rfl⟩ := Machine.withOperand_ok.mp h
    obtain ⟨hi, he⟩ := rxRow_inSpace rxEn
    exact ⟨hi, by rw [he, takeBit_eq_ok.mp hb]; rfl⟩
  | decoderResult | ackOut =>
    obtain ⟨rfl, rfl⟩ := decodeWhenOne_eq_ok h
    exact ⟨rfl, rfl⟩

end Decode

/-- The byte conditions of a row are part of its condition in a space. -/
theorem wf_of_inSpace {sp : Space} {i : Instr} (h : i.inSpace sp = true) : i.wf = true := by
  cases i
  case decStartSkip b | decLenNonzero b | decEndBad b => cases sp <;> simp_all [Instr.inSpace, Instr.wf]
  all_goals rfl

/-- Settles O13: every operand's decoder reads exactly the bytes that the operand is encoded as, and the rest of a
row is fixed by its first byte and the space. -/
theorem encodeOfDecode : Obligations.EncodeOfDecode := by
  intro sp bytes i rest h
  obtain ⟨hi, hbytes⟩ := decodeIn_eq_ok h
  exact ⟨wf_of_inSpace hi, hi, hbytes⟩

end Sys2Proof

namespace Sys2Proof.Machine

/-! ## Runs of decoder steps (40_checksum_encoder.md R85, 41_decoder.md section 2) -/

theorem decodeBytes_nil (s : State) : decodeBytes [] s = .next (s, []) := rfl

theorem decodeBytes_cons {b : Byte} {bs : List Byte} {s u : State} {rs : List DecResult} :
    decodeBytes (b :: bs) s = .next (u, rs) ↔
      ∃ t r qs, decodeByte b s = .next (t, r) ∧ decodeBytes bs t = .next (u, qs) ∧ rs = r :: qs := by
  simp only [decodeBytes, andThen_eq_next, Host.Outcome.next.injEq, Prod.mk.injEq, Prod.exists]
  constructor
  · rintro ⟨t, r, h, _, qs, hs, rfl, rfl⟩
    exact ⟨t, r, qs, h, hs, rfl⟩
  · rintro ⟨t, r, qs, h, hs, rfl⟩
    exact ⟨t, r, h, u, qs, hs, rfl, rfl⟩

theorem decodeBytes_singleton {b : Byte} {s t : State} {r : DecResult} (h : decodeByte b s = .next (t, r)) :
    decodeBytes [b] s = .next (t, [r]) :=
  decodeBytes_cons.mpr ⟨t, r, [], h, rfl, rfl⟩

/-- A run over a concatenation is the two runs one after the other. -/
theorem decodeBytes_append {bs cs : List Byte} {s u : State} {rs : List DecResult} :
    decodeBytes (bs ++ cs) s = .next (u, rs) ↔
      ∃ t ps qs, decodeBytes bs s = .next (t, ps) ∧ decodeBytes cs t = .next (u, qs) ∧ rs = ps ++ qs := by
  induction bs generalizing s rs with
  | nil => simp [decodeBytes_nil]
  | cons b bs ih =>
    simp only [List.cons_append, decodeBytes_cons, ih]
    constructor
    · rintro ⟨t, r, _, h, ⟨v, ps, qs, hps, hqs, rfl⟩, rfl⟩
      exact ⟨v, r :: ps, qs, ⟨t, r, ps, h, hps, rfl⟩, hqs, rfl⟩
    · rintro ⟨v, _, qs, ⟨t, r, ps, h, hps, rfl⟩, hqs, rfl⟩
      exact ⟨t, r, ps ++ qs, h, ⟨v, ps, qs, hps, hqs, rfl⟩, rfl⟩

theorem decodeBytes_length {bs : List Byte} {s t : State} {rs : List DecResult}
    (h : decodeBytes bs s = .next (t, rs)) : rs.length = bs.length := by
  induction bs generalizing s rs with
  | nil => cases h; rfl
  | cons b bs ih =>
    obtain ⟨_, _, qs, _, hqs, rfl⟩ := decodeBytes_cons.mp h
    simp [ih hqs]

/-! ### The payload's bytes -/

/-- What a run of payload bytes writes, in `AwaitPayload` (R94). -/
def storePayload (bs : List Byte) (s : State) : State :=
  { s with
    rxBuf := s.rxBuf.load s.rxCount.toNat bs
    rxChk := s.rxChk ^^^ Sys2Proof.checksum bs
    decState := if s.rxCount.toNat + bs.length = s.rxLen.toNat then .awaitChecksum else .awaitPayload
    rxCount := s.rxCount + BitVec.ofNat 8 bs.length
    rxWritten := max s.rxWritten (s.rxCount.toNat + bs.length) }

theorem toNat_add_ofNat {c len : Byte} {n : Nat} (h : c.toNat + n ≤ len.toNat) :
    (c + BitVec.ofNat 8 n).toNat = c.toNat + n := by
  have := len.isLt
  simp only [BitVec.toNat_add, BitVec.toNat_ofNat]
  omega

theorem storePayload_cons (b : Byte) (bs : List Byte) {s : State}
    (h : s.rxCount.toNat + (b :: bs).length ≤ s.rxLen.toNat) :
    storePayload bs (storePayload [b] s) = storePayload (b :: bs) s := by
  rw [List.length_cons] at h
  have count : (s.rxCount + 1#8).toNat = s.rxCount.toNat + 1 := toNat_add_ofNat (n := 1) (len := s.rxLen) (by omega)
  have total : 1#8 + BitVec.ofNat 8 bs.length = BitVec.ofNat 8 (bs.length + 1) := by
    rw [← BitVec.ofNat_add, Nat.add_comm]
  simp [storePayload, Memory.load, count, BitVec.xor_assoc, BitVec.add_assoc, total, Nat.add_assoc, Nat.add_comm 1]

/-- As long as the bytes fit into the frame's length, they are stored one after the other. -/
theorem decodeBytes_payload {bs : List Byte} {s : State} (hd : s.decState = .awaitPayload) (hne : bs ≠ [])
    (hl : s.rxCount.toNat + bs.length ≤ s.rxLen.toNat) :
    decodeBytes bs s = .next (storePayload bs s, List.replicate bs.length .inProgress) := by
  induction bs generalizing s with
  | nil => exact absurd rfl hne
  | cons b bs ih =>
    have first : decodeByte b s = .next (storePayload [b] s, .inProgress) := by
      have hc : s.rxCount.toNat < Config.bufCap := lt_bufCap_of_lt_length (len := s.rxLen) (by simp at hl; omega)
      simp [decodeByte_awaitPayload b hd hc, storePayload, Memory.load]
    cases bs with
    | nil => exact decodeBytes_singleton first
    | cons c bs =>
      refine decodeBytes_cons.mpr ⟨_, _, _, first, ?_, List.replicate_succ⟩
      rw [← storePayload_cons b _ hl]
      have count : (storePayload [b] s).rxCount.toNat = s.rxCount.toNat + 1 :=
        toNat_add_ofNat (n := 1) (len := s.rxLen) (by simp at hl; omega)
      simp only [List.length_cons] at hl
      refine ih ?_ (by simp) ?_
      · simp only [storePayload, List.length_singleton]
        rw [if_neg (by omega)]
      · simp only [count, List.length_cons]
        simp only [storePayload]
        omega

/-! ### A frame -/

/-- The decoder before a frame's CHK: the payload is stored, counted and folded (R91, R93, R94). -/
def holdPayload (p : Payload) (s : State) : State :=
  { s with
    decState := .awaitChecksum
    rxLen := payloadLen p
    rxCount := payloadLen p
    rxChk := Sys2Proof.checksum p.bytes
    rxBuf := s.rxBuf.load 0 p.bytes
    delivered := false
    rxWritten := max s.rxWritten p.bytes.length }

theorem decodeBytes_toChecksum (p : Payload) {s : State} (hd : s.decState = .awaitStart) :
    decodeBytes ([Config.stx, payloadLen p] ++ p.bytes) s =
      .next (holdPayload p s, List.replicate (p.bytes.length + 2) .inProgress) := by
  have len := payloadLen_toNat p
  refine decodeBytes_cons.mpr ⟨_, _, _, decodeByte_awaitStart_stx hd, ?_, List.replicate_succ⟩
  cases hp : p.bytes with
  | nil =>
    have zero : payloadLen p = 0#8 := by simp [payloadLen, hp]
    rw [zero]
    refine (decodeBytes_singleton (decodeByte_awaitLength_zero rfl)).trans ?_
    simp [holdPayload, zero, hp, Memory.load]
  | cons b bs =>
    have nonzero : payloadLen p ≠ 0#8 := fun h => by simp [h, hp] at len
    rw [hp] at len
    refine decodeBytes_cons.mpr ⟨_, _, _, decodeByte_awaitLength_nonzero rfl nonzero, ?_, List.replicate_succ⟩
    rw [decodeBytes_payload rfl (by simp) (by simp [len])]
    have ofNat : BitVec.ofNat 8 (bs.length + 1) = payloadLen p := by simp [payloadLen, hp]
    simp [storePayload, holdPayload, len, hp, ofNat]

/-- After a whole frame: the payload is delivered, in `AwaitStart` (R97). -/
def deliverPayload (p : Payload) (s : State) : State :=
  { holdPayload p s with decState := .awaitStart, delivered := true }

theorem holdPayload_slice (p : Payload) (s : State) :
    (holdPayload p s).rxBuf.slice (holdPayload p s).rxLen.toNat = some p.bytes := by
  simp only [holdPayload, payloadLen_toNat, load_slice_zero]

/-- The round trip: CHK matches the folded checksum, and ETX delivers the stored bytes. -/
theorem decodeBytes_frameBytes (p : Payload) {s : State} (hd : s.decState = .awaitStart) :
    decodeBytes (frameBytes p) s =
      .next (deliverPayload p s,
        List.replicate (p.bytes.length + 3) .inProgress ++ [.ok p.bytes (payloadLen p)]) := by
  have chk : decodeByte (Sys2Proof.checksum p.bytes) (holdPayload p s) =
      .next ({ holdPayload p s with decState := .awaitEnd }, .inProgress) := decodeByte_awaitChecksum_match rfl rfl
  have etx : decodeByte Config.etx { holdPayload p s with decState := .awaitEnd } =
      .next (deliverPayload p s, .ok p.bytes (payloadLen p)) := decodeByte_awaitEnd_etx rfl (holdPayload_slice p s)
  refine decodeBytes_append.mpr ⟨_, _, _, decodeBytes_toChecksum p hd,
    decodeBytes_cons.mpr ⟨_, _, _, chk, decodeBytes_singleton etx, rfl⟩, ?_⟩
  rw [List.replicate_succ', List.append_assoc]
  rfl

theorem lastResult_concat (rs : List DecResult) (r : DecResult) : lastResult (rs ++ [r]) = r := by
  induction rs with
  | nil => rfl
  | cons q rs ih =>
    cases rs with
    | nil => rfl
    | cons q' rs => exact ih

theorem exec_frame {p : Payload} {s t : State} {rs : List DecResult}
    (run : decodeBytes (frameBytes p) s = .next (t, rs)) :
    exec (.frame p) s = .next (t.withResult (.decoder (lastResult rs))) := by
  simp only [exec, execFrame, wireFrame, run, andThen_next, report_next]

/-- Settles O29: the run over the frame is computed from its three parts, and writes what `deliverPayload` does. -/
theorem frameRoundTrip : Obligations.FrameRoundTrip := by
  intro p s hd
  have run := decodeBytes_frameBytes p hd
  refine ⟨deliverPayload p s, run, rfl, ?_, fun a ha => ?_, rfl, ?_⟩
  · exact (hostView_payload_of_delivered rfl).trans (holdPayload_slice p s)
  · exact read_load_outside s.rxBuf p.bytes (.inr (by omega))
  · rw [exec_frame run, lastResult_concat]
    rfl

/-- Bytes that are not STX are discarded one by one (R92). -/
theorem decodeBytes_garbage {garbage : List Byte} {s : State} (hd : s.decState = .awaitStart)
    (hg : Config.stx ∉ garbage) : decodeBytes garbage s = .next (s, List.replicate garbage.length .inProgress) := by
  induction garbage with
  | nil => rfl
  | cons b garbage ih =>
    obtain ⟨hb, hg⟩ := List.ne_and_not_mem_of_not_mem_cons hg
    exact decodeBytes_cons.mpr ⟨_, _, _, decodeByte_awaitStart_other hd hb.symm, ih hg, List.replicate_succ⟩

/-- Settles O30: the discarded bytes leave the state in which the frame is read. -/
theorem resyncAfterGarbage : Obligations.ResyncAfterGarbage := by
  intro p garbage s hd hg
  refine ⟨deliverPayload p s,
    decodeBytes_append.mpr ⟨_, _, _, decodeBytes_garbage hd hg, decodeBytes_frameBytes p hd, ?_⟩, rfl⟩
  rw [← List.append_assoc, List.replicate_append_replicate, Nat.add_assoc]

/-- Settles O31: the folded checksum is the payload's, so another byte is the mismatch of R96. -/
theorem corruptedChecksumIsRejected : Obligations.CorruptedChecksumIsRejected := by
  intro p c s hd hc
  have mismatch : decodeByte c (holdPayload p s) = _ := decodeByte_awaitChecksum_mismatch rfl hc
  exact ⟨_, decodeBytes_append.mpr ⟨_, _, _, decodeBytes_toChecksum p hd, decodeBytes_singleton mismatch, rfl⟩, rfl⟩

end Sys2Proof.Machine

namespace Sys2Proof.Machine

/-! ## The decoder's registers under a step (10_state.md R16) -/

/-- The registers that the decoder's steps write, and the model's two marks beside them. -/
structure SameDecoder (s t : State) : Prop where
  decState : t.decState = s.decState
  rxLen : t.rxLen = s.rxLen
  rxCount : t.rxCount = s.rxCount
  rxChk : t.rxChk = s.rxChk
  rxBuf : t.rxBuf = s.rxBuf
  delivered : t.delivered = s.delivered
  rxWritten : t.rxWritten = s.rxWritten

theorem TransmitterFrame.sameDecoder {s t : State} (f : TransmitterFrame s t) : SameDecoder s t :=
  ⟨f.decState, f.rxLen, f.rxCount, f.rxChk, f.rxBuf, f.delivered, f.rxWritten⟩

theorem SameDecoder.decoderInv {s t : State} (f : SameDecoder s t) (h : DecoderInv s) : DecoderInv t := by
  simpa only [DecoderInv, f.decState, f.rxLen, f.rxCount, f.rxChk, f.rxBuf, f.delivered, f.rxWritten] using h

/-- A slice has a value exactly if each of its bytes has one. -/
theorem slice_isSome_iff {m : Memory} {n : Nat} :
    (m.slice n).isSome = true ↔ ∀ i < n, (m.read i).isSome = true := by
  induction n with
  | zero => simp [Memory.slice]
  | succ n ih =>
    have split : (m.slice (n + 1)).isSome = true ↔ (m.slice n).isSome = true ∧ (m.read n).isSome = true := by
      simp only [Memory.slice]
      cases m.slice n <;> cases m.read n <;> simp
    rw [split, ih, Nat.forall_lt_succ_right]

/-- A write at the end of the written bytes, or inside them, leaves no gap. -/
theorem slice_write_isSome {m : Memory} {n c : Nat} (b : Byte) (hn : (m.slice n).isSome = true) (hc : c ≤ n) :
    ((m.write c b).slice (max n (c + 1))).isSome = true := by
  rw [slice_isSome_iff] at hn ⊢
  intro i hi
  rw [read_write]
  split
  · rfl
  · exact hn i (by omega)

/-- Each of the eight transitions keeps R16. The three that end a frame, and the one on a matching CHK, write neither
the count nor the length, which R16(d) makes equal in the states they start from. -/
theorem decodeByte_decoderInv {b : Byte} {s t : State} {r : DecResult} (hs : DecoderInv s)
    (h : decodeByte b s = .next (t, r)) : DecoderInv t := by
  obtain ⟨hle, hlen, hlt, hall, hchk, hdel, hcount, hcap, hslice⟩ := hs
  have undelivered (hd : s.decState ≠ .awaitStart) {P : Prop} (h : s.delivered = true) : P := absurd (hdel h) hd
  rcases decodeByte_cases h with
    ⟨hd, _, _, rfl⟩ | ⟨hd, _, _, rfl⟩ | ⟨hd, _, rfl⟩ | ⟨hd, hc, _, rfl⟩ | ⟨hd, _, _, rfl⟩ | ⟨hd, _, _, rfl⟩ |
    ⟨hd, _, _, rfl⟩ | ⟨hd, _, _, rfl⟩
  · exact ⟨Nat.le_refl _, fun _ => ⟨rfl, rfl, rfl⟩, by simp, by simp, rfl, by simp, Nat.zero_le _, hcap, hslice⟩
  · exact ⟨hle, hlen, hlt, hall, hchk, hdel, hcount, hcap, hslice⟩
  · obtain ⟨_, count, _⟩ := hlen hd
    refine ⟨by simp [count], by simp [ite_eq_iff], fun hb => ?_, fun hb => ?_, hchk, undelivered (by simp [hd]),
      hcount, hcap, hslice⟩
    · have nonzero : b ≠ 0#8 := by simpa [ite_eq_iff] using hb
      simp only [count]
      bv_omega
    · have zero : b = 0#8 := by simpa [ite_eq_iff] using hb
      exact count.trans zero.symm
  · have succ : (s.rxCount + 1#8).toNat = s.rxCount.toNat + 1 := toNat_add_ofNat (n := 1) (hlt hd)
    have hlt := hlt hd
    obtain ⟨bs, hbs, fold⟩ := Option.map_eq_some_iff.mp hchk
    simp only [Config.bufCap] at hc hcap
    refine ⟨?_, by simp [ite_eq_iff], fun hn => ?_, fun hn => ?_, ?_, undelivered (by simp [hd]), ?_, ?_,
      slice_write_isSome b hslice hcount⟩
    · simp only [succ]; omega
    · have more : s.rxCount.toNat + 1 ≠ s.rxLen.toNat := by simpa [ite_eq_iff] using hn
      simp only [succ]; omega
    · have last : s.rxCount.toNat + 1 = s.rxLen.toNat := by simpa [ite_eq_iff] using hn
      exact BitVec.eq_of_toNat_eq (succ.trans last)
    · simp only [succ, slice_write_end hbs, Option.map_some, checksum_snoc, fold]
    · simp only [succ]; omega
    · simp only [Config.bufCap]; omega
  · exact ⟨hle, by simp, by simp, fun _ => hall (by simp [hd]), hchk, undelivered (by simp [hd]), hcount, hcap,
      hslice⟩
  all_goals exact ⟨hle, by simp, by simp, fun _ => hall (by simp [hd]), hchk, fun _ => rfl, hcount, hcap, hslice⟩

theorem decodeBytes_decoderInv {bs : List Byte} {s t : State} {rs : List DecResult} (hs : DecoderInv s)
    (h : decodeBytes bs s = .next (t, rs)) : DecoderInv t := by
  induction bs generalizing s rs with
  | nil => cases h; exact hs
  | cons b bs ih =>
    obtain ⟨u, _, qs, run, rest, _⟩ := decodeBytes_cons.mp h
    exact ih (decodeByte_decoderInv hs run) rest

theorem decodeBytes_completes {s : State} (bs : List Byte) (hs : DecoderInv s) :
    ∃ t rs, decodeBytes bs s = .next (t, rs) := by
  induction bs generalizing s with
  | nil => exact ⟨s, [], rfl⟩
  | cons b bs ih =>
    obtain ⟨u, r, run⟩ := decodeByte_completes b hs
    obtain ⟨t, rs, rest⟩ := ih (decodeByte_decoderInv hs run)
    exact ⟨t, r :: rs, decodeBytes_cons.mpr ⟨u, r, rs, run, rest, rfl⟩⟩

/-! ### `rx_buf` and the count (R94) -/

/-- What a decoder step does to `rx_buf`: nothing, the count kept or cleared, or it stores a byte at the count. -/
inductive BufferEffect (s t : State) : Prop
  | keeps (rxBuf : t.rxBuf = s.rxBuf) (written : t.rxWritten = s.rxWritten)
      (count : t.rxCount = s.rxCount ∨ s.decState = .awaitStart ∧ t.rxCount = 0#8)
  | stores (b : Byte) (storing : s.decState = .awaitPayload) (room : s.rxCount.toNat < Config.bufCap)
      (rxBuf : t.rxBuf = s.rxBuf.write s.rxCount.toNat b)
      (written : t.rxWritten = max s.rxWritten (s.rxCount.toNat + 1)) (count : t.rxCount = s.rxCount + 1#8)

theorem decodeByte_bufferEffect {b : Byte} {s t : State} {r : DecResult} (h : decodeByte b s = .next (t, r)) :
    BufferEffect s t := by
  rcases decodeByte_cases h with
    ⟨hd, _, _, rfl⟩ | ⟨_, _, _, rfl⟩ | ⟨_, _, rfl⟩ | ⟨hd, hc, _, rfl⟩ | ⟨_, _, _, rfl⟩ | ⟨_, _, _, rfl⟩ |
    ⟨_, _, _, rfl⟩ | ⟨_, _, _, rfl⟩
  · exact .keeps rfl rfl (.inr ⟨hd, rfl⟩)
  · exact .keeps rfl rfl (.inl rfl)
  · exact .keeps rfl rfl (.inl rfl)
  · exact .stores b hd hc rfl rfl rfl
  all_goals exact .keeps rfl rfl (.inl rfl)

theorem BufferEffect.read_above {s t : State} (e : BufferEffect s t) {a : Nat} (ha : s.rxCount.toNat < a) :
    t.rxBuf.read a = s.rxBuf.read a := by
  cases e with
  | keeps rxBuf => rw [rxBuf]
  | stores b storing room rxBuf => rw [rxBuf, read_write_other _ b (by omega)]

theorem BufferEffect.count_le {s t : State} (e : BufferEffect s t) : t.rxCount.toNat ≤ s.rxCount.toNat + 1 := by
  cases e with
  | keeps rxBuf written count => rcases count with e | ⟨_, e⟩ <;> simp [e]
  | stores b storing room rxBuf written count => rw [count, BitVec.toNat_add]; exact Nat.mod_le _ _

/-- A run writes below the count at its begin plus its bytes. -/
theorem decodeBytes_read_above {bs : List Byte} {s t : State} {rs : List DecResult}
    (h : decodeBytes bs s = .next (t, rs)) {a : Nat} (ha : s.rxCount.toNat + bs.length ≤ a) :
    t.rxBuf.read a = s.rxBuf.read a := by
  induction bs generalizing s rs with
  | nil => cases h; rfl
  | cons b bs ih =>
    obtain ⟨u, _, qs, run, rest, _⟩ := decodeBytes_cons.mp h
    have e := decodeByte_bufferEffect run
    have count := e.count_le
    rw [List.length_cons] at ha
    rw [ih rest (by omega), e.read_above (by omega)]

/-! ## The wire symbols (log entry 8) -/

/-- A decoder step does not read the last result. -/
theorem decodeByte_withResult (b : Byte) (s : State) (q : OpResult) :
    decodeByte b (s.withResult q) = andThen (decodeByte b s) fun (t, r) => .next (t.withResult q, r) := by
  have other := decodeByte_other b s s.txPhase s.txIdx s.txLen s.txChk s.txBuf s.retxCount s.deadline s.tick
    s.ackReceived s.channel s.timeout s.port q
  refine other.trans ?_
  cases run : decodeByte b s with
  | next v =>
    obtain ⟨t, r⟩ := v
    have f := decodeByte_frameFields run
    simp [State.withResult, ← f.txPhase, ← f.txIdx, ← f.txLen, ← f.txChk, ← f.txBuf, ← f.retxCount, ← f.deadline,
      ← f.tick, ← f.ackReceived, ← f.channel, ← f.timeout, ← f.port]
  | fault f => rfl
  | refused f => rfl

theorem decodeBytes_withResult (bs : List Byte) (s : State) (q : OpResult) :
    decodeBytes bs (s.withResult q) = andThen (decodeBytes bs s) fun (t, rs) => .next (t.withResult q, rs) := by
  induction bs generalizing s with
  | nil => rfl
  | cons b bs ih => simp only [decodeBytes, decodeByte_withResult, andThen_assoc, andThen_next, ih]

theorem lastResult_cons (r : DecResult) {rs : List DecResult} (hne : rs ≠ []) :
    lastResult (r :: rs) = lastResult rs := by
  cases rs with
  | nil => exact absurd rfl hne
  | cons q rs => rfl

/-- DECODE_STEP on each byte is the run of the decoder steps, with the last result on the wires. -/
theorem runDecodeSteps_eq {bs : List Byte} (hne : bs ≠ []) (s : State) :
    runDecodeSteps bs s = report .decoder (andThen (decodeBytes bs s) fun (t, rs) => .next (t, lastResult rs)) := by
  induction bs generalizing s with
  | nil => exact absurd rfl hne
  | cons b bs ih =>
    simp only [runDecodeSteps, exec, execDecodeStep, decodeBytes]
    cases run : decodeByte b s with
    | fault f => rfl
    | refused f => rfl
    | next v =>
      obtain ⟨t, r⟩ := v
      cases bs with
      | nil => rfl
      | cons c cs =>
        simp only [report_next, andThen_next]
        rw [ih (by simp), decodeBytes_withResult]
        cases rest : decodeBytes (c :: cs) t with
        | fault f => rfl
        | refused f => rfl
        | next w =>
          obtain ⟨u, qs⟩ := w
          have nonempty : qs ≠ [] := List.length_pos_iff.mp (by simp [decodeBytes_length rest])
          simp [lastResult_cons r nonempty]

theorem exec_decodeStep_completes {s : State} (b : Byte) (hs : DecoderInv s) :
    ∃ t r, exec (.decodeStep b) s = .next t ∧ t.result = .decoder r := by
  obtain ⟨t, r, run⟩ := decodeByte_completes b hs
  exact ⟨_, r, report_eq_next.mpr ⟨t, r, run, rfl⟩, rfl⟩

/-- The acknowledgment is written and at once taken (R131, R143). -/
theorem exec_ack (s : State) :
    exec .ack s = .next { s with ackReceived := true, channel := none, result := .none } := by
  simp [exec, execAck, ackWrite, handoff_ackWrite, State.withResult]

/-- Settles O55: STX and ETX have the meaning of DECODE_STEP, FRAME is a run of it over the frame's bytes, and under
R16 no step of the run faults. -/
theorem wireSymbols : Obligations.WireSymbols := by
  refine ⟨fun s => ⟨rfl, rfl⟩, fun s hs => ?_, fun p s => ?_, fun p s hs => ?_, exec_ack⟩
  · exact ⟨exec_decodeStep_completes Config.stx hs, exec_decodeStep_completes Config.etx hs⟩
  · exact (runDecodeSteps_eq (by simp [frameBytes]) s).symm
  · obtain ⟨t, rs, run⟩ := decodeBytes_completes (frameBytes p) hs
    have kept : DecoderInv t := decodeBytes_decoderInv hs run
    refine ⟨_, lastResult rs, exec_frame run, rfl, kept,
      congrArg (·.withResult (.decoder (lastResult rs))) (decodeBytes_frame run), fun a ha => ?_⟩
    exact decodeBytes_read_above run (by rw [frameBytes_length]; omega)

end Sys2Proof.Machine

namespace Sys2Proof.Machine

/-! ## What a row does to the decoder's registers

`RowEffect`, seen from the decoder: where its registers change, they change as in one decoder step. -/

theorem SameDecoder.refl (s : State) : SameDecoder s s := ⟨rfl, rfl, rfl, rfl, rfl, rfl, rfl⟩

theorem SameDecoder.symm {s t : State} (f : SameDecoder s t) : SameDecoder t s :=
  ⟨f.decState.symm, f.rxLen.symm, f.rxCount.symm, f.rxChk.symm, f.rxBuf.symm, f.delivered.symm, f.rxWritten.symm⟩

theorem SameDecoder.trans {s t u : State} (f : SameDecoder s t) (g : SameDecoder t u) : SameDecoder s u :=
  ⟨g.decState.trans f.decState, g.rxLen.trans f.rxLen, g.rxCount.trans f.rxCount, g.rxChk.trans f.rxChk,
    g.rxBuf.trans f.rxBuf, g.delivered.trans f.delivered, g.rxWritten.trans f.rxWritten⟩

/-- Neither the increment nor the transmitter of a tick writes a decoder register. -/
theorem tick_transmitter_sameDecoder {s u : State} {r : TxResult}
    (run : transmitterStep (tickIncrement s) = .next (u, r)) : SameDecoder s u := by
  have f := transmitterStep_frameFields run
  exact ⟨f.decState, f.rxLen, f.rxCount, f.rxChk, f.rxBuf, f.delivered, f.rxWritten⟩

theorem withResult_sameDecoder (s : State) (r : OpResult) : SameDecoder s (s.withResult r) := by
  constructor <;> rfl

theorem handoff_sameDecoder (s : State) : SameDecoder s (handoff s) := by
  rcases handoff_cases s with ⟨_, e⟩ | ⟨_, e⟩ <;> rw [e] <;> constructor <;> rfl

/-- A decoder step computes the same from states with the same decoder registers. -/
theorem decodeByte_sameDecoder {b : Byte} {s t u : State} {r : DecResult} (f : SameDecoder s t)
    (h : decodeByte b s = .next (u, r)) : ∃ v, decodeByte b t = .next (v, r) ∧ SameDecoder u v := by
  have other := decodeByte_other b s t.txPhase t.txIdx t.txLen t.txChk t.txBuf t.retxCount t.deadline t.tick
    t.ackReceived t.channel t.timeout t.port t.result
  rw [h, andThen_next, ← f.decState, ← f.rxLen, ← f.rxCount, ← f.rxChk, ← f.rxBuf, ← f.delivered,
    ← f.rxWritten] at other
  exact ⟨_, other, ⟨rfl, rfl, rfl, rfl, rfl, rfl, rfl⟩⟩

/-- Part (3) of a tick takes one decoder step, whose result it reports, or none. -/
theorem receiverPart_decoder {rxEn : Bool} {s t : State} {r : RxResult} {ackOut : Bool}
    (h : receiverPart rxEn s = .next (t, r, ackOut)) :
    (SameDecoder s t ∧ ∀ d, r ≠ .decoded d) ∨
      ∃ b u d, decodeByte b s = .next (u, d) ∧ SameDecoder u t ∧ r = .decoded d := by
  cases rxEn with
  | false =>
    cases h
    exact .inl ⟨.refl s, by simp⟩
  | true =>
    rcases receiverStep_cases h with ⟨_, rfl, _, rfl⟩ | ⟨b, v, d, _, run, rfl, ht⟩
    · exact .inl ⟨.refl t, by simp⟩
    · obtain ⟨u, run, f⟩ := decodeByte_sameDecoder (t := s) (by constructor <;> rfl) run
      have same : SameDecoder v t := by rcases ht with ⟨_, _, _, _, rfl⟩ | ⟨_, _, rfl⟩ <;> constructor <;> rfl
      exact .inr ⟨b, u, d, run, f.symm.trans same, rfl⟩

/-- What a row that answers a next state does to the decoder's registers. -/
inductive DecoderEffect (i : Instr) (s t : State) : Prop
  | reset (row : i = .reset) (next : t = resetState s)
  | frame (p : Payload) (u : State) (rs : List DecResult) (row : i = .frame p)
      (run : decodeBytes (frameBytes p) s = .next (u, rs)) (same : SameDecoder u t)
  | step (b : Byte) (u : State) (r : DecResult) (run : decodeByte b s = .next (u, r)) (same : SameDecoder u t)
  | leaves (same : SameDecoder s t)

theorem receiverPart_decoderEffect {i : Instr} {rxEn : Bool} {s s1 s2 t : State} {r : RxResult} {ackOut : Bool}
    (before : SameDecoder s s1) (h : receiverPart rxEn s1 = .next (s2, r, ackOut)) (after : SameDecoder s2 t) :
    DecoderEffect i s t := by
  rcases receiverPart_decoder h with ⟨same, _⟩ | ⟨b, u, d, run, same, _⟩
  · exact .leaves ((before.trans same).trans after)
  · obtain ⟨v, run, f⟩ := decodeByte_sameDecoder before.symm run
    exact .step b v d run ((f.symm.trans same).trans after)

theorem exec_decoderEffect {i : Instr} {s t : State} (h : exec i s = .next t) : DecoderEffect i s t := by
  cases exec_effect h with
  | decoder b u r row run next => exact .step b u r run (next ▸ withResult_sameDecoder u _)
  | frame p u rs row run next => exact .frame p u rs row run (next ▸ withResult_sameDecoder u _)
  | transmitter u r row run next =>
    exact .leaves ((transmitterStep_frameFields run).sameDecoder.trans (next ▸ withResult_sameDecoder u _))
  | receiver u r ackOut row run next =>
    exact receiverPart_decoderEffect (rxEn := true) (.refl s) run (next ▸ withResult_sameDecoder u _)
  | tick rxEn s1 s2 tx rx ackOut row transmitter receiver next =>
    refine receiverPart_decoderEffect (tick_transmitter_sameDecoder transmitter) receiver ?_
    subst next
    cases ackOut <;> constructor <;> rfl
  | start p row idle next => exact .leaves (by subst next; constructor <;> rfl)
  | returns r row quiet next => exact .leaves (next ▸ withResult_sameDecoder s r)
  | reset row next => exact .reset row next
  | ack row next => exact .leaves (by subst next; constructor <;> rfl)
  | ackWrite bs n row next => exact .leaves (by subst next; constructor <;> rfl)
  | handoff row next => exact .leaves ((handoff_sameDecoder s).trans (next ▸ withResult_sameDecoder _ _))

/-! ## The invariants along a step (10_state.md sections 2 and 3) -/

/-- Every row keeps R16. -/
theorem exec_decoderInv {i : Instr} {s t : State} (hs : DecoderInv s) (h : exec i s = .next t) : DecoderInv t := by
  cases exec_decoderEffect h with
  | reset row next =>
    subst next
    exact ⟨Nat.le_refl _, by simp [resetState, State.reset], by simp [resetState, State.reset], fun _ => rfl, rfl,
      fun _ => rfl, Nat.le_refl _, Nat.zero_le _, rfl⟩
  | frame p u rs row run same => exact same.decoderInv (decodeBytes_decoderInv hs run)
  | step b u r run same => exact same.decoderInv (decodeByte_decoderInv hs run)
  | leaves same => exact same.decoderInv hs

theorem SessionFrame.transmitterInv {s t : State} (f : SessionFrame s t) (ht : t.timeout = s.timeout)
    (h : TransmitterInv s) : TransmitterInv t := by
  simpa only [TransmitterInv, f.txPhase, f.txIdx, f.txLen, f.txChk, f.txBuf, f.retxCount, f.deadline, f.tick, ht]
    using h

/-- A payload index that is sent from is below the length (R24(a)). -/
theorem transmitterStep_index {s t : State} {r : TxResult} (h : transmitterStep s = .next (t, r))
    (hs : s.txPhase = .sendPayload → s.txIdx.toNat < s.txLen.toNat) :
    t.txPhase = .sendPayload → t.txIdx.toNat < t.txLen.toNat := by
  rcases transmitterStep_cases h with
    ⟨_, _, rfl⟩ | ⟨_, _, rfl⟩ | ⟨_, _, _, rfl⟩ | ⟨_, hl, _, rfl⟩ | ⟨hp, _, _, b, _, rfl⟩ | ⟨_, _, rfl⟩ |
    ⟨_, _, rfl⟩ | ⟨_, _, _, rfl⟩ | ⟨_, _, _, _, rfl⟩ | ⟨_, _, _, _, rfl⟩
  · exact hs
  · simp
  · simp
  · intro _; bv_omega
  · intro ht
    have hlt := hs hp
    have more : s.txIdx.toNat + 1 ≠ s.txLen.toNat := by simpa [ite_eq_iff] using ht
    have succ : (s.txIdx + 1#8).toNat = s.txIdx.toNat + 1 := toNat_add_ofNat (n := 1) hlt
    simp only [succ]
    omega
  · simp
  · simp
  · simp
  · simp
  · exact hs

/-- A deadline that is waited for is at most `TIMEOUT` ahead (R24(c)). -/
theorem transmitterStep_due {s t : State} {r : TxResult} (h : transmitterStep s = .next (t, r))
    (hs : s.txPhase = .awaitAck → s.timeout ≤ s.deadline ∧ s.deadline ≤ s.tick + s.timeout) :
    t.txPhase = .awaitAck → t.timeout ≤ t.deadline ∧ t.deadline ≤ t.tick + t.timeout := by
  rcases transmitterStep_cases h with
    ⟨_, _, rfl⟩ | ⟨_, _, rfl⟩ | ⟨_, _, _, rfl⟩ | ⟨_, _, _, rfl⟩ | ⟨_, _, _, b, _, rfl⟩ | ⟨_, _, rfl⟩ |
    ⟨_, _, rfl⟩ | ⟨_, _, _, rfl⟩ | ⟨_, _, _, _, rfl⟩ | ⟨_, _, _, _, rfl⟩ <;> simp_all [ite_eq_iff]

/-- An attempt moves on by at most one tick's worth in a step, and a retransmission takes the four of the attempt
before it (R24(d)). -/
theorem transmitterStep_attemptTicks {s t : State} {r : TxResult} (h : transmitterStep s = .next (t, r)) :
    4 * t.retxCount + attemptTicks t.txPhase ≤ 4 * s.retxCount + attemptTicks s.txPhase + 1 := by
  rcases transmitterStep_cases h with
    ⟨hp, _, rfl⟩ | ⟨hp, _, rfl⟩ | ⟨hp, _, _, rfl⟩ | ⟨hp, _, _, rfl⟩ | ⟨hp, _, _, b, _, rfl⟩ | ⟨hp, _, rfl⟩ |
    ⟨hp, _, rfl⟩ | ⟨hp, _, _, rfl⟩ | ⟨hp, _, _, _, rfl⟩ | ⟨hp, _, _, _, rfl⟩ <;> simp only [hp]
  case inr.inr.inr.inr.inl => split_ifs <;> simp [attemptTicks]
  all_goals
    simp only [attemptTicks]
    omega

/-- A tick keeps R24: its increment pays for the byte that its transmitter step emits. -/
theorem tick_transmitterInv {s t : State} {r : TxResult} (hs : TransmitterInv s)
    (h : transmitterStep (tickIncrement s) = .next (t, r)) : TransmitterInv t := by
  have f := transmitterStep_frameFields h
  have ticks := transmitterStep_attemptTicks h
  obtain ⟨hidx, hchk, hdue, _⟩ := tickIncrement_transmitterInv hs
  obtain ⟨_, _, _, htick⟩ := hs
  refine ⟨transmitterStep_index h hidx, by simpa only [f.txLen, f.txChk, f.txBuf] using hchk,
    transmitterStep_due h hdue, ?_⟩
  simp only [tickIncrement_retxCount, tickIncrement_txPhase] at ticks
  rw [f.tick, tickIncrement_tick]
  omega

theorem startAccepted_transmitterInv (p : Payload) (s : State) : TransmitterInv (startAccepted p s).1 := by
  refine ⟨by simp [startAccepted], ?_, by simp [startAccepted], Nat.zero_le _⟩
  simp only [startAccepted, payloadLen_toNat, load_slice_zero, Option.map_some]

theorem resetState_transmitterInv (s : State) : TransmitterInv (resetState s) :=
  ⟨by simp [resetState, State.reset], rfl, by simp [resetState, State.reset], Nat.le_refl _⟩

theorem selectedTxRow_not_host (s : State) (idle : Bool) : (selectedTxRow s).inSpace (.hostOp idle) = false := by
  rw [selectedTxRow]
  fun_cases txRow s.txPhase s.ackReceived (ackDue s) <;> rfl

/-- Every host operation keeps R24. A TX row on its own does not: it takes no tick for the byte it emits. -/
theorem exec_transmitterInv {i : Instr} {idle : Bool} {s t : State} (hi : i.inSpace (.hostOp idle) = true)
    (hs : TransmitterInv s) (h : exec i s = .next t) : TransmitterInv t := by
  have timeout := exec_timeout h
  cases exec_sessionEffect h with
  | reset row next => exact next ▸ resetState_transmitterInv s
  | start p row idle frame => exact frame.transmitterInv timeout (startAccepted_transmitterInv p s)
  | transmitter u r row run frame => simp [row, selectedTxRow_not_host] at hi
  | tick rxEn u r row run frame =>
    have timeout' : t.timeout = u.timeout := timeout.trans (transmitterStep_frameFields run).timeout.symm
    exact frame.transmitterInv timeout' (tick_transmitterInv hs run)
  | leaves row frame => exact frame.transmitterInv timeout hs

/-! ### The buffers' canonical form -/

theorem BufferEffect.wf {s t : State} (e : BufferEffect s t) (hs : s.rxBuf.wf = true) : t.rxBuf.wf = true := by
  cases e with
  | keeps rxBuf => rwa [rxBuf]
  | stores b storing room rxBuf => rw [rxBuf]; exact write_wf hs room

theorem decodeBytes_rxBuf_wf {bs : List Byte} {s t : State} {rs : List DecResult}
    (h : decodeBytes bs s = .next (t, rs)) (hs : s.rxBuf.wf = true) : t.rxBuf.wf = true := by
  induction bs generalizing s rs with
  | nil => cases h; exact hs
  | cons b bs ih =>
    obtain ⟨u, _, qs, run, rest, _⟩ := decodeBytes_cons.mp h
    exact ih rest ((decodeByte_bufferEffect run).wf hs)

theorem exec_rxBuf_wf {i : Instr} {s t : State} (hs : s.rxBuf.wf = true) (h : exec i s = .next t) :
    t.rxBuf.wf = true := by
  cases exec_decoderEffect h with
  | reset row next => rw [next]; exact hs
  | frame p u rs row run same => rw [same.rxBuf]; exact decodeBytes_rxBuf_wf run hs
  | step b u r run same => rw [same.rxBuf]; exact (decodeByte_bufferEffect run).wf hs
  | leaves same => rwa [same.rxBuf]

theorem exec_txBuf_wf {i : Instr} {s t : State} (hs : s.txBuf.wf = true) (h : exec i s = .next t) :
    t.txBuf.wf = true := by
  cases exec_sessionEffect h with
  | reset row next => rw [next]; exact hs
  | start p row idle frame => rw [frame.txBuf]; exact load_wf hs (by simpa using p.short)
  | transmitter u r row run frame => rwa [frame.txBuf, (transmitterStep_frameFields run).txBuf]
  | tick rxEn u r row run frame => rwa [frame.txBuf, (transmitterStep_frameFields run).txBuf]
  | leaves row frame => rwa [frame.txBuf]

/-! ### The block's invariant -/

theorem exec_blockInv {i : Instr} {idle : Bool} {s t : State} (hi : i.inSpace (.hostOp idle) = true)
    (hs : BlockInv s) (h : exec i s = .next t) : BlockInv t := by
  obtain ⟨hdec, htx, hrxBuf, htxBuf⟩ := hs
  exact ⟨exec_decoderInv hdec h, exec_transmitterInv hi htx h, exec_rxBuf_wf hrxBuf h, exec_txBuf_wf htxBuf h⟩

/-- The host port is no part of the invariant. -/
theorem step_blockInv {s t : State} (hs : BlockInv s) (h : step s = .next t) : BlockInv t := by
  rcases step_eq_next.mp h with ⟨_, rfl⟩ | ⟨i, rest, hi, run⟩
  · exact hs
  · exact exec_blockInv (s := { s with port := rest }) (decodeHostOp_inSpace hi) hs run

/-- Settles O57: a step is a host operation, and each keeps the invariant of either machine and both buffers. -/
theorem stepKeepsInv : Obligations.StepKeepsInv :=
  fun _ _ => step_blockInv

/-- Settles O56: in the reset state both buffers are empty and both lengths are 0. -/
theorem invAtReset : Obligations.InvAtReset := by
  unfold Obligations.InvAtReset
  decide

end Sys2Proof.Machine

namespace Sys2Proof.Machine

/-! ## Completion under the invariants (20_memory.md R47) -/

/-- R24 rules out both faults: an index below `tx_len` is one of the buffer, and its byte has a value. -/
theorem transmitterStep_completes {s : State} (hs : TransmitterInv s) :
    ∃ t r, transmitterStep s = .next (t, r) := by
  obtain ⟨hidx, hchk, _⟩ := hs
  cases hp : s.txPhase with
  | idle => exact ⟨_, _, transmitterStep_idle hp⟩
  | sendStart => exact ⟨_, _, transmitterStep_sendStart hp⟩
  | sendLength =>
    by_cases hl : s.txLen = 0#8
    · exact ⟨_, _, transmitterStep_sendLength_zero hp hl⟩
    · exact ⟨_, _, transmitterStep_sendLength_nonzero hp hl⟩
  | sendPayload =>
    have hlt := hidx hp
    obtain ⟨bs, hbs, _⟩ := Option.map_eq_some_iff.mp hchk
    have value : (s.txBuf.read s.txIdx.toNat).isSome = true := slice_isSome_iff.mp (by rw [hbs]; rfl) _ hlt
    obtain ⟨b, hb⟩ := Option.isSome_iff_exists.mp value
    exact ⟨_, _, transmitterStep_sendPayload hp (lt_bufCap_of_lt_length hlt) hb⟩
  | sendChecksum => exact ⟨_, _, transmitterStep_sendChecksum hp⟩
  | sendEnd => exact ⟨_, _, transmitterStep_sendEnd hp⟩
  | awaitAck =>
    cases ha : s.ackReceived with
    | true => exact ⟨_, _, transmitterStep_acked hp ha⟩
    | false =>
      rcases Nat.lt_or_ge s.tick s.deadline with hd | hd
      · exact ⟨_, _, transmitterStep_wait hp ha hd⟩
      · exact ⟨_, _, transmitterStep_timeout hp ha hd⟩

theorem receiverPart_completes {s : State} (rxEn : Bool) (hs : DecoderInv s) :
    ∃ t r ackOut, receiverPart rxEn s = .next (t, r, ackOut) := by
  cases rxEn with
  | false => exact ⟨s, _, _, rfl⟩
  | true => exact receiverStep_completes hs

/-- The parts of a TICK in a state with the invariants: the transmitter leaves the receiver's. -/
theorem tick_parts_complete {s : State} (rxEn : Bool) (hs : BlockInv s) :
    ∃ u tx v rx ackOut, transmitterStep (tickIncrement s) = .next (u, tx) ∧
      receiverPart rxEn u = .next (v, rx, ackOut) := by
  obtain ⟨hdec, htx, _⟩ := hs
  obtain ⟨u, tx, run⟩ := transmitterStep_completes (tickIncrement_transmitterInv htx)
  have kept : DecoderInv u := (tick_transmitter_sameDecoder run).decoderInv hdec
  obtain ⟨v, rx, ackOut, receive⟩ := receiverPart_completes rxEn kept
  exact ⟨u, tx, v, rx, ackOut, run, receive⟩

/-- Under the invariants every host operation that the state admits answers a next state. -/
theorem exec_host_completes {i : Instr} {s : State} (hi : i.inSpace (hostSpace s) = true) (hs : BlockInv s) :
    ∃ t, exec i s = .next t := by
  cases i <;> simp only [hostSpace, Instr.inSpace, reduceCtorEq, Bool.false_eq_true, beq_iff_eq] at hi
  case reset => exact ⟨_, rfl⟩
  case startSend p => exact ⟨_, rfl⟩
  case startSendBusy p => exact ⟨_, whenSelected_of_true _ hi⟩
  case tick rxEn =>
    obtain ⟨u, tx, v, rx, ackOut, run, receive⟩ := tick_parts_complete rxEn hs
    exact ⟨_, execTick_of_parts run receive⟩
  case decodeStep b =>
    obtain ⟨t, _, h, _⟩ := exec_decodeStep_completes b hs.1
    exact ⟨t, h⟩
  case checksum bs => exact ⟨_, rfl⟩
  case encodeFrame p => exact ⟨_, rfl⟩

/-- A fault of a step is the fault of the operation that it takes off the host port. -/
theorem step_eq_fault {s : State} {f : Fault} (h : step s = .fault f) :
    ∃ i rest, decodeIn (hostSpace s) s.port = .ok (i, rest) ∧ exec i { s with port := rest } = .fault f := by
  unfold step at h
  split at h
  · cases h
  · next hp =>
    split at h
    · next i rest hd => exact ⟨i, rest, hp ▸ hd, h⟩
    · cases h

/-- Settles O58: the operation on the port is one that the state admits, and under the invariants it completes. -/
theorem stepNeverFaults : Obligations.StepNeverFaults := by
  intro s f hs h
  obtain ⟨i, rest, hi, hf⟩ := step_eq_fault h
  obtain ⟨t, ht⟩ := exec_host_completes (s := { s with port := rest }) (decodeHostOp_inSpace hi) hs
  rw [ht] at hf
  cases hf

/-! ## The run (10_state.md section 6) -/

/-- The invariants hold along every run that does not stop. -/
theorem run_blockInv {n : Nat} {s t : State} (hs : BlockInv s) (h : core.run n s = .next t) : BlockInv t := by
  induction n generalizing s with
  | zero => cases h; exact hs
  | succ n ih =>
    simp only [Host.Core.run] at h
    split at h
    · next u hu => exact ih (step_blockInv hs hu) h
    · cases h
    · cases h

/-- Settles O60: by R24(d) the count is at most a quarter of the tick, and the two registers have the same width. -/
theorem retxCounterFitsItsRegister : Obligations.RetxCounterFitsItsRegister := by
  intro n s t hs h ht
  obtain ⟨_, ⟨_, _, _, attempts⟩, _⟩ := run_blockInv hs h
  simp only [Config.tickW, Config.retxW] at ht ⊢
  omega

/-! ## TICK (44_scheduler.md) -/

theorem report_eq_fault {α : Type} {f : α → OpResult} {o : Outcome (State × α)} {r : Fault} :
    report f o = .fault r ↔ o = .fault r := by
  cases o <;> simp [report]

/-- The transmitter does not read the last result. -/
theorem transmitterStep_withResult (s : State) (q : OpResult) :
    transmitterStep (s.withResult q) = andThen (transmitterStep s) fun (t, r) => .next (t.withResult q, r) := by
  refine (transmitterStep_other s s.decState s.rxLen s.rxCount s.rxChk s.rxBuf s.port q s.delivered
    s.rxWritten).trans ?_
  cases run : transmitterStep s with
  | next v =>
    obtain ⟨t, r⟩ := v
    have f := transmitterStep_frameFields run
    simp [State.withResult, ← f.decState, ← f.rxLen, ← f.rxCount, ← f.rxChk, ← f.rxBuf, ← f.port, ← f.delivered,
      ← f.rxWritten]
  | fault f => rfl
  | refused f => rfl

/-- Nor does the receiver. -/
theorem receiverPart_withResult_eq (rxEn : Bool) (s : State) (q : OpResult) :
    receiverPart rxEn (s.withResult q) = andThen (receiverPart rxEn s) fun (t, v) => .next (t.withResult q, v) := by
  refine (receiverPart_other rxEn s s.txPhase s.txIdx s.txLen s.txChk s.txBuf s.retxCount s.deadline s.tick
    s.ackReceived s.timeout s.port q).trans ?_
  cases run : receiverPart rxEn s with
  | next v =>
    obtain ⟨f, _⟩ := receiverPart_cases run
    simp [State.withResult, ← f.txPhase, ← f.txIdx, ← f.txLen, ← f.txChk, ← f.txBuf, ← f.retxCount, ← f.deadline,
      ← f.tick, ← f.ackReceived, ← f.timeout, ← f.port]
  | fault f => rfl
  | refused f => rfl

theorem receiverPart_withResult_eq_fault {rxEn : Bool} {s : State} {q : OpResult} {f : Fault} :
    receiverPart rxEn (s.withResult q) = .fault f ↔ receiverPart rxEn s = .fault f := by
  rw [receiverPart_withResult_eq]
  cases receiverPart rxEn s <;> simp

theorem execTick_fault_of_transmitter {rxEn : Bool} {s : State} {f : Fault}
    (h : transmitterStep (tickIncrement s) = .fault f) : exec (.tick rxEn) s = .fault f := by
  simp [exec, execTick, tickBody, h, report]

theorem execTick_fault_of_receiver {rxEn : Bool} {s u : State} {tx : TxResult} {f : Fault}
    (h : transmitterStep (tickIncrement s) = .next (u, tx)) (hr : receiverPart rxEn u = .fault f) :
    exec (.tick rxEn) s = .fault f := by
  simp [exec, execTick, tickBody, h, hr, report]

/-- Settles O48: under the invariants both parts of a TICK complete, and neither writes the session's data; a fault of
either is the TICK's, since nothing in a TICK goes on after one. -/
theorem tickCompletes : Obligations.TickCompletes := by
  refine ⟨fun rxEn s hs => ?_, ?_⟩
  · obtain ⟨u, tx, v, rx, ackOut, run, receive⟩ := tick_parts_complete rxEn hs
    have f := transmitterStep_frameFields run
    obtain ⟨g, _, _, _, skipped⟩ := receiverPart_cases receive
    have unstepped (h : rxEn = false) : rx = .notStepped ∧ v.decState = s.decState ∧ v.rxLen = s.rxLen ∧
        v.rxCount = s.rxCount ∧ v.rxChk = s.rxChk ∧ v.rxBuf = s.rxBuf := by
      obtain ⟨rfl, notStepped, _⟩ := skipped h
      exact ⟨notStepped, f.decState, f.rxLen, f.rxCount, f.rxChk, f.rxBuf⟩
    refine ⟨_, tx, rx, execTick_of_parts run receive, ?_⟩
    cases ackOut <;>
      exact ⟨rfl, g.tick.trans f.tick, g.txLen.trans f.txLen, g.txChk.trans f.txChk, g.txBuf.trans f.txBuf,
        g.timeout.trans f.timeout, g.port.trans f.port, unstepped⟩
  · rintro rxEn s _ f rfl
    refine ⟨fun h => ?_, fun s2 h hr => ?_⟩
    · rw [exec_selectedTxRow] at h
      exact execTick_fault_of_transmitter (report_eq_fault.mp h)
    · rw [exec_selectedTxRow] at h
      obtain ⟨u, tx, run, rfl⟩ := report_eq_next.mp h
      rw [exec_rxRow] at hr
      exact execTick_fault_of_receiver run (receiverPart_withResult_eq_fault.mp (report_eq_fault.mp hr))

end Sys2Proof.Machine

namespace Sys2Proof

/-! ## The host port's words (30_encoding.md sections 5 and 6) -/

/-- Settles O11: the words are those of the spec, and the decoders compute. -/
theorem sampleWordsDecode : Obligations.SampleWordsDecode := by
  unfold Obligations.SampleWordsDecode
  decide

namespace Machine

/-- With an operation on the port the step is its execution. -/
theorem step_of_decode {s : State} {i : Instr} {rest : List Byte}
    (h : decodeIn (hostSpace s) s.port = .ok (i, rest)) : step s = exec i { s with port := rest } := by
  unfold step
  cases hp : s.port with
  | nil => rw [hp] at h; cases h
  | cons b bs => rw [hp] at h; simp only [h]

theorem step_of_decode_error {s : State} {e : DecodeError} (hne : s.port ≠ [])
    (h : decodeIn (hostSpace s) s.port = .error e) : step s = .refused (.notAHostOperation e) := by
  unfold step
  cases hp : s.port with
  | nil => exact absurd hp hne
  | cons b bs => rw [hp] at h; simp only [h]

theorem step_of_empty {s : State} (h : s.port = []) : step s = .next s :=
  step_eq_next.mpr (.inl ⟨h, rfl⟩)

/-- Settles O15: the three cases are the step's own. -/
theorem stepRunsTheDecodedOperation : Obligations.StepRunsTheDecodedOperation :=
  ⟨fun _ _ _ => step_of_decode, fun _ => step_of_empty, fun _ _ => step_of_decode_error⟩

/-- Settles O14: the rows of the host's space are the operations of R70, and the selector has no other value. -/
theorem hostPortOperations : Obligations.HostPortOperations := by
  refine ⟨fun idle bytes i rest h => ?_, fun s rest hp => ?_, fun s rest hp => ?_⟩
  · have hi : i.inSpace (.hostOp idle) = true := decodeHostOp_inSpace h
    cases i <;> simp_all [Instr.inSpace]
  all_goals exact step_of_decode_error (by simp [hp]) (by rw [hp]; rfl)

/-- Settles O16: the placed bytes are the operation's encoding, so the next step reads it back and leaves nothing. -/
theorem fetchWordRunsTheDecodedWord : Obligations.FetchWordRunsTheDecodedWord := by
  intro s nbits w i hp h
  have space : hostSpace s = .hostOp true := by simp [hostSpace, sessionIdle, hp]
  unfold decodeTableWord at h
  split at h
  · next j rest hd =>
    obtain rfl : j = i := by simpa using h
    obtain ⟨hi, bytes⟩ := decodeIn_eq_ok hd
    have taken : (tableWordBytes nbits w).take ((tableWordBytes nbits w).length - rest.length) = encode j := by
      simp [← bytes]
    have placed : s.withFetchWord nbits w = { s with port := encode j } := by
      simp only [State.withFetchWord, space, hd, taken]
    have read : decodeIn (hostSpace s) (encode j) = .ok (j, []) := by
      rw [space]
      simpa using decodeIn_encode [] hi
    rw [placed]
    exact step_of_decode read
  · simp at h

end Machine

/-- A concatenation folds on from the first part's checksum (R80). -/
theorem checksum_append (bs cs : List Byte) : checksum (bs ++ cs) = checksum bs ^^^ checksum cs := by
  rw [← checksum_foldl cs (checksum bs), checksum, List.foldl_append]
  rfl

/-- Settles O19: the fold goes on over a concatenation, and a byte cancels itself. -/
theorem checksumAlgebra : Obligations.ChecksumAlgebra :=
  ⟨checksum_append, fun bs => by rw [checksum_snoc, BitVec.xor_self]⟩

end Sys2Proof

namespace Sys2Proof.Machine

/-! ## The transmitter's rows (42_transmitter.md section 2) -/

theorem ordinal_injective {p q : TxPhase} (h : p.ordinal = q.ordinal) : p = q :=
  Option.some.inj (by rw [← ofOrdinal_ordinal p, h, ofOrdinal_ordinal])

/-- The rows of the transmitter's space with one phase are told apart by what the space carries. -/
theorem selectedTxRow_unique {s : State} {i : Instr} (hi : i.inSpace (txSpace s) = true)
    (he : encode i = [s.txPhase.ordinal.setWidth 8]) : i = selectedTxRow s := by
  obtain ⟨p, hp, rfl⟩ := encode_txRow_of_inSpace hi
  rw [hp] at he
  have ordinal : p.ordinal = s.txPhase.ordinal := by
    have := congrArg (BitVec.setWidth 3) (List.head_eq_of_cons_eq he)
    simpa using this
  rw [ordinal_injective ordinal]
  rfl

/-- Settles O41: the step with its result reported is the selected row's meaning. -/
theorem transmitterStepIsTheSelectedRow : Obligations.TransmitterStepIsTheSelectedRow :=
  ⟨fun s => (exec_selectedTxRow s).symm, fun _ _ => selectedTxRow_unique⟩

/-- Settles O42: what the step writes into the slot does not depend on what it held. -/
theorem transmitterIgnoresTheChannel : Obligations.TransmitterIgnoresTheChannel := by
  intro s t ch h
  rw [exec_selectedTxRow] at h
  obtain ⟨u, r, run, rfl⟩ := report_eq_next.mp h
  have other := transmitterStep_channel s ch
  rw [run, andThen_next] at other
  refine ⟨_, (exec_selectedTxRow { s with channel := ch }).trans (report_eq_next.mpr ⟨_, r, other, rfl⟩), rfl, ?_⟩
  simp only [withResult_channel]
  split
  · exact .inr rfl
  · exact .inl rfl

theorem whenSelected_of_false {c : Bool} (o : Outcome State) (hc : c = false) :
    whenSelected c o = .refused .rowNotSelected :=
  hc ▸ rfl

/-- A decoder row's condition is its place in the decoder's space. -/
theorem exec_decRow_refused {s : State} {i : Instr} {d : DecState} {c : Byte} (hi : i.inSpace (.decByte d c) = true)
    (hs : i.inSpace (decSpace s) = false) : exec i s = .refused .rowNotSelected := by
  cases i <;> simp only [Instr.inSpace, reduceCtorEq, Bool.false_eq_true, beq_iff_eq] at hi
  all_goals exact whenSelected_of_false _ hs

/-- A transmitter row whose condition holds is the selected one. -/
theorem exec_txRow_refused {s : State} {i : Instr} {a d : Bool} (hi : i.inSpace (.txStep a d) = true)
    (hne : i ≠ selectedTxRow s) : exec i s = .refused .rowNotSelected := by
  cases i <;> simp only [Instr.inSpace, reduceCtorEq, Bool.false_eq_true, beq_iff_eq] at hi
  all_goals
    refine whenSelected_of_false _ (Bool.eq_false_iff.mpr fun hc => hne ?_)
    simp_all [selectedTxRow, txRow]

/-- Settles O43: each row tests its condition before anything else. -/
theorem unselectedRowsAreRefused : Obligations.UnselectedRowsAreRefused :=
  ⟨fun _ _ _ _ => exec_decRow_refused, fun _ _ _ _ => exec_txRow_refused⟩

/-! ## The acknowledgment (43_receiver.md section 1, 44_scheduler.md) -/

/-- Settles O45: RX.ACKWRITE reads its condition from the result, and the receiver step raises `ack_out` on `Ok`. -/
theorem acknowledgmentWrite : Obligations.AcknowledgmentWrite := by
  refine ⟨fun s bs n h => ?_, fun s t r a h hr => ?_⟩
  · simp [exec, execRxAckWrite, h, afterDecode, ackWrite, receiverResult, chWrite, State.withResult]
  · obtain ⟨u, ⟨r', a'⟩, run, rfl⟩ := report_eq_next.mp h
    obtain ⟨rfl, rfl⟩ : r' = r ∧ a' = a := by simpa [receiverResult] using hr
    obtain ⟨slot, ok⟩ := receiverStep_channel run
    exact ⟨ok, slot⟩

/-- Settles O46: the row's condition is the raised `ack_out`, and the rest is the test on the byte. -/
theorem handoff_spec : Obligations.Handoff := by
  intro s r h
  have raised : exec .schedHandoff s = .next ((handoff s).withResult .none) :=
    whenSelected_of_true _ (by simp [ackOutRaised, h])
  rw [raised]
  exact ⟨fun hc => by simp [handoff, hc, chClear, State.withResult],
    fun hc => by simp [handoff, hc, State.withResult]⟩

/-- The transmitter clears the mark where it looks at it, in `AwaitAck` (R118). -/
theorem transmitterStep_ackReceived {s t : State} {r : TxResult} (h : transmitterStep s = .next (t, r)) :
    t.ackReceived = (s.ackReceived && s.txPhase != .awaitAck) := by
  rcases transmitterStep_cases h with
    ⟨hp, _, rfl⟩ | ⟨hp, _, rfl⟩ | ⟨hp, _, _, rfl⟩ | ⟨hp, _, _, rfl⟩ | ⟨hp, _, _, b, _, rfl⟩ | ⟨hp, _, rfl⟩ |
    ⟨hp, _, rfl⟩ | ⟨hp, ha, _, rfl⟩ | ⟨hp, ha, _, _, rfl⟩ | ⟨hp, ha, _, _, rfl⟩ <;> simp [*]

/-- The mark after a TICK: set by an `Ok`, else what the transmitter left. -/
theorem execTick_ackReceived {rxEn : Bool} {s t : State} (h : exec (.tick rxEn) s = .next t) :
    t.ackReceived = match t.result with
      | .tick _ (.decoded (.ok _ _)) => true
      | _ => s.ackReceived && s.txPhase != .awaitAck := by
  obtain ⟨u, v, tx, rx, ackOut, run, receive, rfl⟩ := execTick_cases h
  obtain ⟨f, ok, _⟩ := receiverPart_cases receive
  cases ackOut with
  | true =>
    obtain ⟨bs, n, rfl⟩ := ok.mp rfl
    rfl
  | false =>
    have kept : v.ackReceived = (s.ackReceived && s.txPhase != .awaitAck) :=
      f.ackReceived.trans (transmitterStep_ackReceived (s := tickIncrement s) run)
    simp only [Bool.false_eq_true, if_false]
    split
    · next hr => simp_all
    · exact kept

/-- Settles O7: for each effect of a row, what it does to the mark. -/
theorem ackMarkWriters : Obligations.AckMarkWriters := by
  intro i s t h
  cases exec_effect h with
  | decoder b u r row run next =>
    have kept : t.ackReceived = s.ackReceived := by rw [next]; exact (decodeByte_frameFields run).ackReceived
    rw [kept]
    rcases row with ⟨hi, _⟩ | rfl | ⟨rfl, _⟩ | ⟨rfl, _⟩
    · cases i <;> simp only [Instr.inSpace, decSpace, reduceCtorEq, Bool.false_eq_true, beq_iff_eq] at hi <;> rfl
    all_goals rfl
  | frame p u rs row run next => rw [row, next, decodeBytes_frame run]; rfl
  | transmitter u r row run next =>
    rw [next, withResult_ackReceived, transmitterStep_ackReceived run, row, selectedTxRow]
    fun_cases txRow s.txPhase s.ackReceived (ackDue s) <;> simp_all
  | receiver u r ackOut row run next => rw [row, next]; exact (receiverStep_frameFields run).ackReceived
  | tick rxEn s1 s2 tx rx ackOut row transmitter receiver next => rw [row] at h ⊢; exact execTick_ackReceived h
  | start p row idle next => rw [row, next]; simp [startAccepted, idle]
  | returns r row quiet next =>
    rw [next]
    rcases row with ⟨p, rfl, busy⟩ | ⟨p, rfl⟩ | ⟨bs, rfl⟩ | ⟨p, rfl⟩ | rfl
    · simp [busy]
    all_goals rfl
  | reset row next => rw [row, next]; rfl
  | ack row next => rw [row, next]
  | ackWrite bs n row next => rw [row, next]; rfl
  | handoff row next =>
    rw [row, next]
    rcases handoff_cases s with ⟨hc, e⟩ | ⟨hc, e⟩ <;> simp [e, hc]

/-- Settles O51: outside `AwaitAck` neither the transmitter nor an `Ok` clears the mark. -/
theorem lateAcknowledgmentIsKept : Obligations.LateAcknowledgmentIsKept := by
  intro rxEn s t ha hp h
  rw [execTick_ackReceived h]
  split
  · rfl
  · simp [ha, hp]

/-! ## The channel at operation boundaries (44_scheduler.md section 2) -/

/-- Settles O50: the receiver empties the slot or writes the ACK that the handoff takes; without it only the
transmitter row writes. -/
theorem channelAtBoundaries : Obligations.ChannelAtBoundaries := by
  refine ⟨fun s t h => ?_, fun s t u h hu => ?_, fun i s t hi h hreset htick => ?_⟩
  · obtain ⟨u, v, tx, rx, ackOut, _, receive, rfl⟩ := execTick_cases h
    obtain ⟨_, _, _, emptied, _⟩ := receiverPart_cases receive
    cases ackOut with
    | true => rfl
    | false => exact emptied rfl rfl
  · obtain ⟨u', v, tx, rx, ackOut, run, receive, rfl⟩ := execTick_cases h
    obtain ⟨_, _, _, _, skipped⟩ := receiverPart_cases receive
    obtain ⟨rfl, _, rfl⟩ := skipped rfl
    rw [exec_selectedTxRow] at hu
    obtain ⟨w, r, run', rfl⟩ := report_eq_next.mp hu
    obtain ⟨rfl, _⟩ : v = w ∧ tx = r := by simpa using run.symm.trans run'
    rfl
  · cases exec_effect h with
    | decoder b u r row run next => rw [next]; exact (decodeByte_frameFields run).channel
    | transmitter u r row run next => simp [row, hostSpace, selectedTxRow_not_host] at hi
    | tick rxEn s1 s2 tx rx ackOut row transmitter receiver next => exact absurd row (htick rxEn)
    | start p row idle next | returns r row quiet next => rw [next]; rfl
    | reset row next => exact absurd row hreset
    | frame p u rs row run next | receiver u r ackOut row run next | ack row next | ackWrite bs n row next
    | handoff row next => rw [row] at hi; cases hi

end Sys2Proof.Machine

namespace Sys2Proof.Machine

/-! ## The model's own fields (log entries 2 and 12) -/

/-- Reporting overwrites the result. -/
theorem report_withResult {α : Type} (f : α → OpResult) (o : Outcome (State × α)) (q : OpResult) :
    report f (andThen o fun (t, a) => .next (t.withResult q, a)) = report f o := by
  cases o <;> rfl

theorem handoff_withResult (s : State) (q : OpResult) : handoff (s.withResult q) = (handoff s).withResult q := by
  rcases handoff_cases s with ⟨hc, e⟩ | ⟨hc, e⟩ <;> simp [handoff, hc, chClear, State.withResult]

theorem tickBody_withResult (rxEn : Bool) (s : State) (q : OpResult) :
    tickBody rxEn (s.withResult q) = andThen (tickBody rxEn s) fun (t, v) => .next (t.withResult q, v) := by
  have increment : tickIncrement (s.withResult q) = (tickIncrement s).withResult q := rfl
  simp only [tickBody, increment, transmitterStep_withResult]
  cases transmitterStep (tickIncrement s) with
  | fault f => rfl
  | refused f => rfl
  | next v =>
    obtain ⟨u, tx⟩ := v
    simp only [andThen_next, receiverPart_withResult_eq]
    cases receiverPart rxEn u with
    | fault f => rfl
    | refused f => rfl
    | next v =>
      obtain ⟨v, rx, ackOut⟩ := v
      cases ackOut <;> simp [handoff_withResult]

/-- No host operation reads the last result. -/
theorem exec_withResult {i : Instr} {idle : Bool} (hi : i.inSpace (.hostOp idle) = true) (s : State) (q : OpResult) :
    exec i (s.withResult q) = exec i s := by
  cases i <;> simp only [Instr.inSpace, reduceCtorEq, Bool.false_eq_true, beq_iff_eq] at hi
  case reset => rfl
  case startSend p =>
    by_cases hp : s.txPhase = .idle
    · rw [exec_startSend_idle hp, exec_startSend_idle (s := s.withResult q) hp]
      rfl
    · rw [exec_startSend_busy hp, exec_startSend_busy (s := s.withResult q) hp]
      rfl
  case startSendBusy p => rfl
  case tick rxEn =>
    simp only [exec, execTick, tickBody_withResult]
    exact report_withResult _ _ _
  case decodeStep b =>
    simp only [exec, execDecodeStep, decodeByte_withResult]
    exact report_withResult _ _ _
  case checksum bs => rfl
  case encodeFrame p => rfl

/-- `s` with the two marks that only the host's view reads (log entry 12). -/
def withMarks (delivered : Bool) (rxWritten : Nat) (s : State) : State :=
  { s with delivered, rxWritten }

section Marks

variable {s t : State} (d : Bool) (w : Nat)

theorem transmitterStep_withMarks {r : TxResult} (h : transmitterStep s = .next (t, r)) :
    transmitterStep (withMarks d w s) = .next (withMarks d w t, r) := by
  have f := transmitterStep_frameFields h
  have other := transmitterStep_other s s.decState s.rxLen s.rxCount s.rxChk s.rxBuf s.port s.result d w
  rw [h, andThen_next] at other
  simpa only [withMarks, f.decState, f.rxLen, f.rxCount, f.rxChk, f.rxBuf, f.port, f.result] using other

/-- What a decoder step makes of the marks is all that depends on them. -/
theorem decodeByte_withMarks {b : Byte} {r : DecResult} (h : decodeByte b s = .next (t, r)) :
    ∃ d' w', decodeByte b (withMarks d w s) = .next (withMarks d' w' t, r) := by
  have marks := decodeByte_marks b s d w
  rw [h, andThen_next] at marks
  exact ⟨_, _, marks⟩

theorem afterDecode_withMarks (r : DecResult) :
    afterDecode (withMarks d w s) r = (withMarks d w (afterDecode s r).1, (afterDecode s r).2) := by
  cases r <;> rfl

theorem receiverPart_withMarks {rxEn : Bool} {v : RxResult × Bool} (h : receiverPart rxEn s = .next (t, v)) :
    ∃ d' w', receiverPart rxEn (withMarks d w s) = .next (withMarks d' w' t, v) := by
  cases rxEn with
  | false => cases h; exact ⟨d, w, rfl⟩
  | true =>
    simp only [receiverPart, if_true] at h ⊢
    cases hc : s.channel with
    | none =>
      rw [receiverStep_noByte hc] at h
      cases h
      exact ⟨d, w, receiverStep_noByte (s := withMarks d w s) hc⟩
    | some b =>
      simp only [receiverStep, chRead, hc, andThen_eq_next] at h
      obtain ⟨⟨u, r⟩, run, after⟩ := h
      replace after : afterDecode u r = (t, v) := Host.Outcome.next.inj after
      obtain ⟨d', w', run'⟩ := decodeByte_withMarks d w run
      refine ⟨d', w', (receiverStep_byte (s := withMarks d w s) hc run').trans ?_⟩
      rw [afterDecode_withMarks, after]

/-- With other marks a host operation that goes on does the same, but for the marks. -/
theorem exec_withMarks {i : Instr} {idle : Bool} (hi : i.inSpace (.hostOp idle) = true) (h : exec i s = .next t) :
    ∃ d' w', exec i (withMarks d w s) = .next (withMarks d' w' t) := by
  cases i <;> simp only [Instr.inSpace, reduceCtorEq, Bool.false_eq_true, beq_iff_eq] at hi
  case reset => cases h; exact ⟨false, 0, rfl⟩
  case startSend p =>
    by_cases hp : s.txPhase = .idle
    · rw [exec_startSend_idle hp] at h
      cases h
      exact ⟨d, w, exec_startSend_idle (s := withMarks d w s) hp⟩
    · rw [exec_startSend_busy hp] at h
      cases h
      exact ⟨d, w, exec_startSend_busy (s := withMarks d w s) hp⟩
  case startSendBusy p =>
    obtain ⟨busy, h⟩ := whenSelected_eq_next.mp h
    cases h
    exact ⟨d, w, whenSelected_of_true _ busy⟩
  case tick rxEn =>
    obtain ⟨u, v, tx, rx, ackOut, run, receive, rfl⟩ := execTick_cases h
    obtain ⟨d', w', receive'⟩ := receiverPart_withMarks d w receive
    have run' : transmitterStep (tickIncrement (withMarks d w s)) = .next (withMarks d w u, tx) :=
      transmitterStep_withMarks d w run
    exact ⟨d', w', (execTick_of_parts run' receive').trans (by cases ackOut <;> rfl)⟩
  case decodeStep b =>
    obtain ⟨u, r, run, rfl⟩ := report_eq_next.mp h
    obtain ⟨d', w', run'⟩ := decodeByte_withMarks d w run
    exact ⟨d', w', report_eq_next.mpr ⟨_, r, run', rfl⟩⟩
  case checksum bs => cases h; exact ⟨d, w, rfl⟩
  case encodeFrame p => cases h; exact ⟨d, w, rfl⟩

end Marks

/-- Settles O17: no machine's step reads the result, and the marks only become marks. -/
theorem hostOperationsIgnoreTheModelsFields : Obligations.HostOperationsIgnoreTheModelsFields := by
  refine ⟨fun i s r hi => exec_withResult hi s r, fun i s d w t hi h => ?_⟩
  obtain ⟨d', w', h'⟩ := exec_withMarks d w hi h
  exact ⟨_, h', rfl⟩

end Sys2Proof.Machine

namespace Sys2Proof.Machine

/-! ## `rx_buf` and the host's view of it (20_memory.md section 3, 10_state.md section 5) -/

theorem BufferEffect.congr {s t u : State} (e : BufferEffect s t) (same : SameDecoder t u) : BufferEffect s u := by
  cases e with
  | keeps rxBuf written count =>
    exact .keeps (same.rxBuf.trans rxBuf) (same.rxWritten.trans written) (by rwa [same.rxCount])
  | stores b storing room rxBuf written count =>
    exact .stores b storing room (same.rxBuf.trans rxBuf) (same.rxWritten.trans written) (same.rxCount.trans count)

/-- Every row but RESET and FRAME does to `rx_buf` what at most one decoder step does. -/
theorem exec_bufferEffect {i : Instr} {s t : State} (h : exec i s = .next t) (hreset : i ≠ .reset)
    (hframe : ∀ p, i ≠ .frame p) : BufferEffect s t := by
  cases exec_decoderEffect h with
  | reset row next => exact absurd row hreset
  | frame p u rs row run same => exact absurd row (hframe p)
  | step b u r run same => exact (decodeByte_bufferEffect run).congr same
  | leaves same => exact .keeps same.rxBuf same.rxWritten (.inl same.rxCount)

theorem BufferEffect.read_other {s t : State} (e : BufferEffect s t) {a : Nat}
    (ha : a ≠ s.rxCount.toNat ∨ s.decState ≠ .awaitPayload) : t.rxBuf.read a = s.rxBuf.read a := by
  cases e with
  | keeps rxBuf => rw [rxBuf]
  | stores b storing room rxBuf =>
    rw [rxBuf, read_write_other _ b (ha.resolve_right (not_not_intro storing))]

theorem BufferEffect.written_eq {s t : State} (e : BufferEffect s t) :
    t.rxWritten = if s.decState = .awaitPayload ∧ t.rxCount ≠ s.rxCount then max s.rxWritten (s.rxCount.toNat + 1)
      else s.rxWritten := by
  cases e with
  | keeps rxBuf written count =>
    rw [written, if_neg]
    rintro ⟨storing, moved⟩
    rcases count with same | ⟨waiting, _⟩
    · exact moved same
    · rw [waiting] at storing; cases storing
  | stores b storing room rxBuf written count =>
    have moved : t.rxCount ≠ s.rxCount := by rw [count]; bv_omega
    rw [written, if_pos ⟨storing, moved⟩]

/-! ### The mark of a delivered payload (R97, R186) -/

theorem decodeByte_delivered {b : Byte} {s t : State} {r : DecResult} (h : decodeByte b s = .next (t, r)) :
    t.delivered = true ↔ (∃ bs n, r = .ok bs n) ∨
      s.delivered = true ∧ ¬(s.decState = .awaitStart ∧ t.decState = .awaitLength) := by
  rcases decodeByte_cases h with
    ⟨hd, _, rfl, rfl⟩ | ⟨hd, _, rfl, rfl⟩ | ⟨hd, rfl, rfl⟩ | ⟨hd, _, rfl, rfl⟩ | ⟨hd, _, rfl, rfl⟩ |
    ⟨hd, _, rfl, rfl⟩ | ⟨hd, _, ⟨bs, _, rfl⟩, rfl⟩ | ⟨hd, _, rfl, rfl⟩ <;> simp [hd]

theorem SameDecoder.delivered_iff {s t : State} (f : SameDecoder s t) :
    t.delivered = true ↔ s.delivered = true ∧ ¬(s.decState = .awaitStart ∧ t.decState = .awaitLength) := by
  rw [f.delivered, f.decState]
  refine ⟨fun h => ⟨h, ?_⟩, And.left⟩
  rintro ⟨start, length⟩
  rw [start] at length
  cases length

/-- What a result says of the mark: it is set by an `Ok`, as a DECODE_STEP's result or a TICK's. -/
theorem exec_delivered {i : Instr} {idle : Bool} {s t : State} (hi : i.inSpace (.hostOp idle) = true)
    (h : exec i s = .next t) :
    t.delivered = true ↔
      (∃ bs n, t.result = .decoder (.ok bs n)) ∨ (∃ tx bs n, t.result = .tick tx (.decoded (.ok bs n))) ∨
      (s.delivered = true ∧ i ≠ .reset ∧ ¬(s.decState = .awaitStart ∧ t.decState = .awaitLength)) := by
  cases i <;> simp only [Instr.inSpace, reduceCtorEq, Bool.false_eq_true, beq_iff_eq] at hi
  case reset => cases h; simp [resetState, State.reset]
  case startSend p =>
    by_cases hp : s.txPhase = .idle
    · rw [exec_startSend_idle hp] at h
      cases h
      simpa using SameDecoder.delivered_iff (s := s) (t := (startAccepted p s).1) (by constructor <;> rfl)
    · rw [exec_startSend_busy hp] at h
      cases h
      simpa using (SameDecoder.refl s).delivered_iff
  case startSendBusy p =>
    obtain ⟨_, h⟩ := whenSelected_eq_next.mp h
    cases h
    simpa [startBusy] using (SameDecoder.refl s).delivered_iff
  case tick rxEn =>
    obtain ⟨u, v, tx, rx, ackOut, run, receive, next⟩ := execTick_cases h
    have before : SameDecoder s u := tick_transmitter_sameDecoder run
    have after : SameDecoder v t := by subst next; cases ackOut <;> constructor <;> rfl
    have result : t.result = .tick tx rx := by subst next; cases ackOut <;> rfl
    rcases receiverPart_decoder receive with ⟨same, quiet⟩ | ⟨b, w, d, step, same, rfl⟩
    · simpa [result, quiet] using ((before.trans same).trans after).delivered_iff
    · have mark := decodeByte_delivered step
      rw [before.delivered, before.decState, ← (same.trans after).delivered, ← (same.trans after).decState] at mark
      simpa [result] using mark
  case decodeStep b =>
    obtain ⟨u, r, run, rfl⟩ := report_eq_next.mp h
    simpa using decodeByte_delivered run
  case checksum bs => cases h; simpa [State.withResult] using (SameDecoder.refl s).delivered_iff
  case encodeFrame p => cases h; simpa [State.withResult] using (SameDecoder.refl s).delivered_iff

/-! ### What the host reads -/

/-- The bytes of a slice, read one by one. -/
theorem map_read_range {m : Memory} {n : Nat} {bs : List Byte} (h : m.slice n = some bs) :
    (List.range n).map m.read = bs.map some := by
  induction n generalizing bs with
  | zero => cases h; rfl
  | succ n ih =>
    obtain ⟨xs, b, hxs, hb, rfl⟩ := slice_succ.mp h
    simp [List.range_succ, ih hxs, hb]

/-- Under R16 the current frame's bytes are among the written ones. -/
theorem hostView_rxBuf_take {s : State} {bs : List Byte} (hs : DecoderInv s)
    (h : s.rxBuf.slice s.rxCount.toNat = some bs) : (hostView s).rxBuf.take s.rxCount.toNat = bs.map some := by
  obtain ⟨hle, _, _, _, _, _, hwritten, _⟩ := hs
  rw [← map_read_range h]
  simp only [hostView, ← List.map_take, List.take_range, Nat.min_eq_left hle]
  exact List.map_congr_left fun i hi => hostByte_written (by have := List.mem_range.mp hi; omega)

/-- A delivered payload is all of `rx_buf[0..rx_len)`, below `rx_count`. -/
theorem DecoderInv.count_eq_length_of_delivered {s : State} (hs : DecoderInv s) (h : s.delivered = true) :
    s.rxCount = s.rxLen := by
  obtain ⟨_, _, _, hall, _, hdel, _⟩ := hs
  exact hall (.inr (.inr (hdel h)))

theorem DecoderInv.slice_count {s : State} (hs : DecoderInv s) : ∃ bs, s.rxBuf.slice s.rxCount.toNat = some bs := by
  obtain ⟨_, _, _, _, hchk, _⟩ := hs
  obtain ⟨bs, hbs, _⟩ := Option.map_eq_some_iff.mp hchk
  exact ⟨bs, hbs⟩

theorem DecoderInv.slice_written {s : State} (hs : DecoderInv s) :
    ∃ bs, s.rxBuf.slice s.rxWritten = some bs := by
  obtain ⟨_, _, _, _, _, _, _, _, hslice⟩ := hs
  exact Option.isSome_iff_exists.mp hslice

theorem hostView_payload_of_not_delivered {s : State} (h : s.delivered = false) : (hostView s).payload = none := by
  simp [hostView, h]

/-- The host's view shows written bytes only. -/
theorem hostView_of_sameSpecified {s t : State} (hs : DecoderInv s) (hst : SameSpecified s t)
    (hw : t.rxBuf.slice s.rxWritten = s.rxBuf.slice s.rxWritten) : hostView t = hostView s := by
  obtain ⟨rx, tx, rfl, hrx, _⟩ := sameSpecified_iff.mp hst
  obtain ⟨bs, hbs⟩ := DecoderInv.slice_written hs
  have bytes : hostByte { s with rxBuf := rx, txBuf := tx } = hostByte s := by
    funext i
    rcases Nat.lt_or_ge i s.rxWritten with hi | hi
    · rw [hostByte_written hi, hostByte_written (s := { s with rxBuf := rx, txBuf := tx }) hi]
      exact read_eq_of_slice_eq hbs hw hi
    · rw [hostByte_unwritten hi, hostByte_unwritten (s := { s with rxBuf := rx, txBuf := tx }) hi]
  have payload (hdel : s.delivered = true) : rx.slice s.rxLen.toNat = s.rxBuf.slice s.rxLen.toNat :=
    DecoderInv.count_eq_length_of_delivered hs hdel ▸ hrx
  simp only [hostView, bytes, HostView.mk.injEq, true_and, and_true]
  split
  · next hdel => exact payload hdel
  · rfl

/-! ### The written bytes along a step -/

theorem BufferEffect.read_from_count {s t : State} (e : BufferEffect s t) {a : Nat} (ha : t.rxCount.toNat ≤ a) :
    t.rxBuf.read a = s.rxBuf.read a := by
  cases e with
  | keeps rxBuf => rw [rxBuf]
  | stores b storing room rxBuf written count =>
    rw [count] at ha
    simp only [Config.bufCap] at room
    rw [rxBuf, read_write_other _ b (by bv_omega)]

theorem BufferEffect.written_from_count {s t : State} (e : BufferEffect s t) {a : Nat} (ha : t.rxCount.toNat ≤ a)
    (hw : a < t.rxWritten) : a < s.rxWritten := by
  cases e with
  | keeps rxBuf written => rwa [written] at hw
  | stores b storing room rxBuf written count =>
    rw [count] at ha
    rw [written] at hw
    simp only [Config.bufCap] at room
    bv_omega

/-- Of two states with the same specified and written bytes, a host operation makes two such states: below the new
count the bytes are specified, from it on they are as before. -/
theorem exec_written_sameSpecified {i : Instr} {idle : Bool} {s t s' t' : State}
    (hi : i.inSpace (.hostOp idle) = true) (hs : DecoderInv s)
    (hw : t.rxBuf.slice s.rxWritten = s.rxBuf.slice s.rxWritten) (h : exec i s = .next s') (h' : exec i t = .next t')
    (hst : SameSpecified s' t') : t'.rxBuf.slice s'.rxWritten = s'.rxBuf.slice s'.rxWritten := by
  by_cases hreset : i = .reset
  · subst hreset
    cases h
    rfl
  · have hframe : ∀ p, i ≠ .frame p := by rintro p rfl; cases hi
    have e := exec_bufferEffect h hreset hframe
    have e' := exec_bufferEffect h' hreset hframe
    have hcount : t'.rxCount = s'.rxCount := by rw [hst.1]
    obtain ⟨_, specified, _⟩ := hst
    obtain ⟨bs, hbs⟩ := DecoderInv.slice_written hs
    obtain ⟨bs', hbs'⟩ := DecoderInv.slice_count (exec_decoderInv hs h)
    refine slice_congr fun a ha => ?_
    rcases Nat.lt_or_ge a s'.rxCount.toNat with hlt | hge
    · exact read_eq_of_slice_eq hbs' specified hlt
    · calc t'.rxBuf.read a = t.rxBuf.read a := e'.read_from_count (hcount ▸ hge)
        _ = s.rxBuf.read a := read_eq_of_slice_eq hbs hw (e.written_from_count hge ha)
        _ = s'.rxBuf.read a := (e.read_from_count hge).symm

theorem step_written_sameSpecified {s t s' : State} (hs : BlockInv s) (hst : SameSpecified s t)
    (hw : t.rxBuf.slice s.rxWritten = s.rxBuf.slice s.rxWritten) (h : step s = .next s') :
    ∃ t', step t = .next t' ∧ SameSpecified s' t' ∧ t'.rxBuf.slice s'.rxWritten = s'.rxBuf.slice s'.rxWritten := by
  obtain ⟨hdec, htx, _⟩ := hs
  have hd : FrameCounted s := DecoderInv.frameCounted hdec
  have hport : t.port = s.port := by rw [hst.1]
  have hspace : hostSpace t = hostSpace s := by rw [hst.1]; rfl
  rcases step_eq_next.mp h with ⟨hp, rfl⟩ | ⟨i, rest, hi, run⟩
  · exact ⟨t, step_of_empty (hport.trans hp), hst, hw⟩
  · have host : i.inSpace (hostSpace s) = true := decodeHostOp_inSpace hi
    obtain ⟨t', run', hst'⟩ := exec_sameSpecified (s := { s with port := rest }) (t := { t with port := rest })
      host hd htx (hst.withPort rest) run
    exact ⟨t', step_eq_next.mpr (.inr ⟨i, rest, by rwa [hport, hspace], run'⟩), hst',
      exec_written_sameSpecified (s := { s with port := rest }) (t := { t with port := rest }) host hdec hw run run'
        hst'⟩

/-- Settles O9: a row stores at most the one byte at the count, the mark of the written bytes moves with it, and the
host's view reads below the two marks only. -/
theorem rxBufferAccess : Obligations.RxBufferAccess := by
  refine ⟨fun i s t h hframe => ?_, fun i s t => exec_delivered, fun s hs => ?_,
    fun s t s' => step_written_sameSpecified⟩
  · by_cases hreset : i = .reset
    · subst hreset
      cases h
      exact ⟨fun _ _ => rfl, rfl⟩
    · have e := exec_bufferEffect h hreset hframe
      exact ⟨fun a => e.read_other, by rw [if_neg hreset]; exact e.written_eq⟩
  · obtain ⟨bs, hbs⟩ := DecoderInv.slice_count hs
    obtain ⟨_, hwritten⟩ := DecoderInv.slice_written hs
    refine ⟨hostView_rxBuf_length s, fun i hi hw => ?_, fun i hi hw => ?_, ⟨bs, hbs, hostView_rxBuf_take hs hbs⟩,
      fun hdel => ?_, hostView_payload_of_not_delivered, fun t => hostView_of_sameSpecified hs⟩
    · have value : (s.rxBuf.read i).isSome = true := slice_isSome_iff.mp (by rw [hwritten]; rfl) i hw
      obtain ⟨b, hb⟩ := Option.isSome_iff_exists.mp value
      exact ⟨b, by rw [hostView_rxBuf_getElem? hi, hostByte_written hw, hb], hb⟩
    · rw [hostView_rxBuf_getElem? hi, hostByte_unwritten hw]
    · have all : s.rxBuf.slice s.rxLen.toNat = some bs := DecoderInv.count_eq_length_of_delivered hs hdel ▸ hbs
      exact ⟨bs, (hostView_payload_of_delivered hdel).trans all, all⟩

end Sys2Proof.Machine

namespace Sys2Proof

/-! ## The bytes of a frame by index (40_checksum_encoder.md section 2) -/

theorem frameBytes_getElem?_stx (p : Payload) : (frameBytes p)[0]? = some Config.stx := rfl

theorem frameBytes_getElem?_length (p : Payload) : (frameBytes p)[1]? = some (payloadLen p) := rfl

theorem frameBytes_getElem?_payload {p : Payload} {k : Nat} (hk : k < p.bytes.length) :
    (frameBytes p)[k + 2]? = p.bytes[k]? := by
  simp [frameBytes, List.getElem?_append_left hk]

theorem frameBytes_getElem?_checksum (p : Payload) :
    (frameBytes p)[p.bytes.length + 2]? = some (checksum p.bytes) := by
  simp [frameBytes]

theorem frameBytes_getElem?_etx (p : Payload) : (frameBytes p)[p.bytes.length + 3]? = some Config.etx := by
  simp [frameBytes]

namespace Machine

/-! ## One attempt of a session (42_transmitter.md section 3)

An attempt emits the bytes of the frame in order, one a tick; `Emitted p j` is the transmitter after `j` of them. -/

/-- The phase of an attempt that has emitted `j` bytes of the frame of an `n`-byte payload. -/
def phaseAfter (n j : Nat) : TxPhase :=
  if j = 0 then .sendStart
  else if j = 1 then .sendLength
  else if j < n + 2 then .sendPayload
  else if j = n + 2 then .sendChecksum
  else if j = n + 3 then .sendEnd
  else .awaitAck

section phaseAfter

variable {n j : Nat}

theorem phaseAfter_payload (h : j < n) : phaseAfter n (j + 2) = .sendPayload := by
  simp [phaseAfter, h]

theorem phaseAfter_checksum : phaseAfter n (n + 2) = .sendChecksum := by
  simp [phaseAfter]

theorem phaseAfter_end : phaseAfter n (n + 3) = .sendEnd := by
  simp [phaseAfter]

theorem phaseAfter_frame : phaseAfter n (n + 4) = .awaitAck := by
  simp [phaseAfter]

end phaseAfter

/-- The attempt has emitted the first `j` bytes of the frame of `p`. -/
structure Emitted (p : Payload) (j : Nat) (s : State) : Prop where
  txLen : s.txLen = payloadLen p
  txChk : s.txChk = Sys2Proof.checksum p.bytes
  txBuf : s.txBuf.slice p.bytes.length = some p.bytes
  txPhase : s.txPhase = phaseAfter p.bytes.length j
  txIdx : s.txPhase = .sendPayload → s.txIdx.toNat + 2 = j

theorem Emitted.congr {p : Payload} {j : Nat} {s t : State} (h : Emitted p j s) (f : SessionFrame s t) :
    Emitted p j t :=
  ⟨f.txLen.trans h.txLen, f.txChk.trans h.txChk, f.txBuf ▸ h.txBuf, f.txPhase.trans h.txPhase,
    by rw [f.txPhase, f.txIdx]; exact h.txIdx⟩

theorem startAccepted_emitted (p : Payload) (s : State) : Emitted p 0 (startAccepted p s).1 :=
  ⟨rfl, rfl, load_slice_zero _ _, rfl, by simp [startAccepted]⟩

/-- The transmitter step from `s` to `t` emits `b` and goes on with the attempt; the retransmissions and the mark
are as before. -/
structure Emits (b : Byte) (s t : State) : Prop where
  run : transmitterStep s = .next (t, .pending)
  channel : t.channel = some b
  retxCount : t.retxCount = s.retxCount
  ackReceived : t.ackReceived = s.ackReceived

section Attempt

variable {p : Payload} {s : State}

theorem Emitted.emits_stx (h : Emitted p 0 s) : ∃ t, Emits Config.stx s t ∧ Emitted p 1 t :=
  ⟨_, ⟨transmitterStep_sendStart h.txPhase, rfl, rfl, rfl⟩, h.txLen, h.txChk, h.txBuf, rfl, by simp⟩

/-- The length byte is followed by the payload's first byte, or by CHK if there is none (R114). -/
theorem Emitted.emits_length (h : Emitted p 1 s) : ∃ t, Emits (payloadLen p) s t ∧ Emitted p 2 t := by
  have len := payloadLen_toNat p
  rw [← h.txLen] at len ⊢
  by_cases hl : s.txLen = 0#8
  · have empty : p.bytes.length = 0 := by simpa [hl] using len.symm
    have phase : TxPhase.sendChecksum = phaseAfter p.bytes.length 2 := by rw [empty, phaseAfter_checksum]
    exact ⟨_, ⟨transmitterStep_sendLength_zero h.txPhase hl, rfl, rfl, rfl⟩, h.txLen, h.txChk, h.txBuf, phase,
      by simp⟩
  · have nonempty : 0 < p.bytes.length := by bv_omega
    exact ⟨_, ⟨transmitterStep_sendLength_nonzero h.txPhase hl, rfl, rfl, rfl⟩, h.txLen, h.txChk, h.txBuf,
      (phaseAfter_payload nonempty).symm, fun _ => rfl⟩

/-- The payload's bytes are emitted in order; the index follows the attempt (R115). -/
theorem Emitted.emits_payload {k : Nat} {b : Byte} (h : Emitted p (k + 2) s) (hb : p.bytes[k]? = some b) :
    ∃ t, Emits b s t ∧ Emitted p (k + 3) t := by
  obtain ⟨hk, _⟩ := List.getElem?_eq_some_iff.mp hb
  have phase : s.txPhase = .sendPayload := h.txPhase.trans (phaseAfter_payload hk)
  have idx : s.txIdx.toNat = k := by have := h.txIdx phase; omega
  have len : s.txLen.toNat = p.bytes.length := by rw [h.txLen, payloadLen_toNat]
  have hlt : s.txIdx.toNat < s.txLen.toNat := by omega
  have read : s.txBuf.read s.txIdx.toNat = some b := by rw [idx, read_of_slice h.txBuf hk, hb]
  have succ : (s.txIdx + 1#8).toNat = s.txIdx.toNat + 1 := toNat_add_ofNat (n := 1) hlt
  refine ⟨_, ⟨transmitterStep_sendPayload phase (lt_bufCap_of_lt_length hlt) read, rfl, rfl, rfl⟩,
    h.txLen, h.txChk, h.txBuf, ?_, fun _ => by simp only [succ]; omega⟩
  by_cases last : k + 1 = p.bytes.length
  · simp only [idx, len, last, if_true]
    rw [← phaseAfter_checksum, ← last]
  · simp only [idx, len, last, if_false]
    exact (phaseAfter_payload (by omega)).symm

theorem Emitted.emits_checksum (h : Emitted p (p.bytes.length + 2) s) :
    ∃ t, Emits (Sys2Proof.checksum p.bytes) s t ∧ Emitted p (p.bytes.length + 3) t := by
  have phase : s.txPhase = .sendChecksum := h.txPhase.trans phaseAfter_checksum
  exact ⟨_, ⟨transmitterStep_sendChecksum phase, congrArg some h.txChk, rfl, rfl⟩, h.txLen, h.txChk, h.txBuf,
    phaseAfter_end.symm, by simp⟩

theorem Emitted.emits_etx (h : Emitted p (p.bytes.length + 3) s) :
    ∃ t, Emits Config.etx s t ∧ Emitted p (p.bytes.length + 4) t := by
  have phase : s.txPhase = .sendEnd := h.txPhase.trans phaseAfter_end
  exact ⟨_, ⟨transmitterStep_sendEnd phase, rfl, rfl, rfl⟩, h.txLen, h.txChk, h.txBuf, phaseAfter_frame.symm, by simp⟩

/-- As long as the frame is not out, the transmitter step emits its next byte. -/
theorem Emitted.emits {j : Nat} (h : Emitted p j s) (hj : j < p.bytes.length + 4) :
    ∃ t b, (frameBytes p)[j]? = some b ∧ Emits b s t ∧ Emitted p (j + 1) t := by
  match j with
  | 0 =>
    obtain ⟨t, e⟩ := h.emits_stx
    exact ⟨t, _, frameBytes_getElem?_stx p, e⟩
  | 1 =>
    obtain ⟨t, e⟩ := h.emits_length
    exact ⟨t, _, frameBytes_getElem?_length p, e⟩
  | k + 2 =>
    rcases Nat.lt_or_ge k p.bytes.length with hk | hk
    · have hb : p.bytes[k]? = some p.bytes[k] := List.getElem?_eq_getElem hk
      obtain ⟨t, e⟩ := h.emits_payload hb
      exact ⟨t, _, (frameBytes_getElem?_payload hk).trans hb, e⟩
    · rcases Nat.eq_or_lt_of_le hk with rfl | hk
      · obtain ⟨t, e⟩ := h.emits_checksum
        exact ⟨t, _, frameBytes_getElem?_checksum p, e⟩
      · obtain rfl : k = p.bytes.length + 1 := by omega
        obtain ⟨t, e⟩ := h.emits_etx
        exact ⟨t, _, frameBytes_getElem?_etx p, e⟩

end Attempt

end Machine

end Sys2Proof

namespace Sys2Proof.Machine

/-! ## A session whose receiver is never stepped (42_transmitter.md section 3, R124) -/

theorem runTicks_succ {rxEn : Bool} {n : Nat} {s t u : State} (h : runTicks rxEn n s = .next t)
    (ht : exec (.tick rxEn) t = .next u) : runTicks rxEn (n + 1) s = .next u :=
  andThen_eq_next.mpr ⟨t, h, ht⟩

/-- Without the receiver a TICK is its transmitter step. -/
theorem execTick_unstepped {s t : State} {r : TxResult} (h : transmitterStep (tickIncrement s) = .next (t, r)) :
    exec (.tick false) s = .next (t.withResult (.tick r .notStepped)) :=
  execTick_of_parts (ackOut := false) (v := t) (rx := .notStepped) h rfl

theorem Emitted.tickIncrement {p : Payload} {j : Nat} {s : State} (h : Emitted p j s) :
    Emitted p j (tickIncrement s) :=
  ⟨h.txLen, h.txChk, h.txBuf, h.txPhase, h.txIdx⟩

theorem Emitted.withResult {p : Payload} {j : Nat} {s : State} (h : Emitted p j s) (r : OpResult) :
    Emitted p j (s.withResult r) :=
  h.congr (withResult_session s r)

/-- After the frame the slot keeps the ETX. -/
theorem frameBytes_getD_from_etx {p : Payload} {r : Nat} (h : p.bytes.length + 3 ≤ r) :
    (frameBytes p).getD r Config.etx = Config.etx := by
  rw [List.getD_eq_getElem?_getD]
  rcases Nat.eq_or_lt_of_le h with rfl | hlt
  · rw [frameBytes_getElem?_etx]
    rfl
  · rw [List.getElem?_eq_none (by rw [frameBytes_length]; omega)]
    rfl

/-- After tick `r` of attempt `q` (both counted from 0): the frame's byte `r` is in the slot, or the ETX is still
there, and the deadline is `TIMEOUT` after the tick of the ETX (R117). -/
structure Scheduled (p : Payload) (T q r : Nat) (s : State) : Prop where
  emitted : Emitted p (min (r + 1) (p.bytes.length + 4)) s
  channel : s.channel = some ((frameBytes p).getD r Config.etx)
  retxCount : s.retxCount = q
  ackReceived : s.ackReceived = false
  timeout : s.timeout = T
  due : p.bytes.length + 3 ≤ r → s.deadline + r = s.tick + T + (p.bytes.length + 3)
  result : s.result = .tick .pending .notStepped

section Schedule

variable {p : Payload} {T q r : Nat} {s : State}

/-- A tick of an attempt whose frame is not out. -/
theorem Emitted.tick_emits (h : Emitted p r s) (hr : r < p.bytes.length + 4) (hq : s.retxCount = q)
    (ha : s.ackReceived = false) (ht : s.timeout = T) :
    ∃ t, exec (.tick false) s = .next t ∧ Scheduled p T q r t := by
  obtain ⟨t, b, hb, e, next⟩ := h.tickIncrement.emits hr
  have f := transmitterStep_frameFields e.run
  refine ⟨_, execTick_unstepped e.run, ?_, ?_, e.retxCount.trans hq, e.ackReceived.trans ha, f.timeout.trans ht,
    fun last => ?_, rfl⟩
  · rw [Nat.min_eq_left (by omega)]
    exact next.withResult _
  · rw [List.getD_eq_getElem?_getD, hb]
    exact e.channel
  · obtain rfl : r = p.bytes.length + 3 := by omega
    have phase : (Machine.tickIncrement s).txPhase = .sendEnd := h.txPhase.trans phaseAfter_end
    have deadline := transmitterStep_deadline e.run
    rw [if_pos phase] at deadline
    simp only [withResult_deadline, withResult_tick, deadline, f.tick, tickIncrement_timeout, ht]

/-- From the ETX on the whole frame is out. -/
theorem Scheduled.frame_out (h : Scheduled p T q r s) (hr : p.bytes.length + 3 ≤ r) :
    Emitted p (p.bytes.length + 4) s := by
  have emitted := h.emitted
  rwa [Nat.min_eq_right (by omega)] at emitted

/-- A tick that waits for the acknowledgment, before the deadline. -/
theorem Scheduled.tick_waits (h : Scheduled p T q r s) (hr : p.bytes.length + 3 ≤ r)
    (hp : r + 1 < retxPeriod p.bytes.length T) :
    ∃ t, exec (.tick false) s = .next t ∧ Scheduled p T q (r + 1) t := by
  have due := h.due hr
  simp only [retxPeriod] at hp
  have emitted := h.frame_out (by omega)
  have phase : s.txPhase = .awaitAck := emitted.txPhase.trans phaseAfter_frame
  have early : (tickIncrement s).tick < (tickIncrement s).deadline := by
    simp only [tickIncrement_tick, tickIncrement_deadline]; omega
  have run := transmitterStep_wait (s := tickIncrement s) phase h.ackReceived early
  refine ⟨_, execTick_unstepped run, ?_, ?_, h.retxCount, h.ackReceived, h.timeout, fun _ => ?_, rfl⟩
  · rw [Nat.min_eq_right (by omega)]
    exact emitted.tickIncrement.withResult _
  · rw [frameBytes_getD_from_etx (by omega), ← frameBytes_getD_from_etx hr]
    exact h.channel
  · simp only [withResult_deadline, withResult_tick, tickIncrement_tick, tickIncrement_deadline]; omega

/-- The tick after the last of a period is the first of the next attempt: the timeout emits its STX (R119). -/
theorem Scheduled.tick_retransmits (h : Scheduled p T q r s)
    (hp : r + 1 = retxPeriod p.bytes.length T) :
    ∃ t, exec (.tick false) s = .next t ∧ Scheduled p T (q + 1) 0 t := by
  simp only [retxPeriod] at hp
  have due := h.due (by omega)
  have emitted := h.frame_out (by omega)
  have phase : s.txPhase = .awaitAck := emitted.txPhase.trans phaseAfter_frame
  have late : (tickIncrement s).deadline ≤ (tickIncrement s).tick := by
    simp only [tickIncrement_tick, tickIncrement_deadline]; omega
  have run := transmitterStep_timeout (s := tickIncrement s) phase h.ackReceived late
  refine ⟨_, execTick_unstepped run, ?_, rfl, congrArg (· + 1) h.retxCount, h.ackReceived, h.timeout, by simp, rfl⟩
  rw [Nat.min_eq_left (by omega)]
  exact ⟨emitted.txLen, emitted.txChk, emitted.txBuf, rfl, by simp⟩

/-- One tick further in the schedule. -/
theorem Scheduled.tick (h : Scheduled p T q r s) (hr : r < retxPeriod p.bytes.length T) :
    ∃ t q' r', exec (.tick false) s = .next t ∧ Scheduled p T q' r' t ∧
      r' < retxPeriod p.bytes.length T ∧
      retxPeriod p.bytes.length T * q' + r' = retxPeriod p.bytes.length T * q + r + 1 := by
  rcases Nat.eq_or_lt_of_le hr with last | more
  · obtain ⟨t, run, ht⟩ := h.tick_retransmits last
    refine ⟨t, q + 1, 0, run, ht, by omega, ?_⟩
    rw [Nat.mul_succ]
    omega
  · rcases Nat.lt_or_ge r (p.bytes.length + 3) with sending | waiting
    · have emitted := h.emitted
      rw [Nat.min_eq_left (by omega)] at emitted
      obtain ⟨t, run, ht⟩ := emitted.tick_emits (by omega) h.retxCount h.ackReceived h.timeout
      exact ⟨t, q, r + 1, run, ht, more, rfl⟩
    · obtain ⟨t, run, ht⟩ := h.tick_waits waiting more
      exact ⟨t, q, r + 1, run, ht, more, rfl⟩

/-- The session after START_SEND and `k + 1` ticks: attempt and tick are `k` divided by the period. -/
theorem runTicks_scheduled (p : Payload) (s : State) (k : Nat) :
    ∃ t, runTicks false (k + 1) ((startAccepted p s).1.withResult (.start .accepted)) = .next t ∧
      Scheduled p s.timeout (k / retxPeriod p.bytes.length s.timeout) (k % retxPeriod p.bytes.length s.timeout)
        t := by
  have period : 0 < retxPeriod p.bytes.length s.timeout := by simp only [retxPeriod]; omega
  induction k with
  | zero =>
    obtain ⟨t, run, ht⟩ := ((startAccepted_emitted p s).withResult (.start .accepted)).tick_emits (q := 0)
      (by omega) rfl rfl rfl
    rw [Nat.zero_div, Nat.zero_mod]
    exact ⟨t, runTicks_succ rfl run, ht⟩
  | succ k ih =>
    obtain ⟨t, run, ht⟩ := ih
    obtain ⟨u, q, r, step, hu, hr, total⟩ := ht.tick (Nat.mod_lt k period)
    rw [Nat.div_add_mod] at total
    have div : (k + 1) / retxPeriod p.bytes.length s.timeout = q := by
      rw [← total, Nat.mul_add_div period, Nat.div_eq_of_lt hr, Nat.add_zero]
    have mod : (k + 1) % retxPeriod p.bytes.length s.timeout = r := by
      rw [← total, Nat.mul_add_mod, Nat.mod_eq_of_lt hr]
    rw [div, mod]
    exact ⟨u, runTicks_succ run step, hu⟩

end Schedule

/-- Settles O53: the attempts counted by the schedule are the retransmissions. -/
theorem retransmissionSchedule : Obligations.RetransmissionSchedule := by
  intro p s k hp
  obtain ⟨t, run, ht⟩ := runTicks_scheduled p s k
  exact ⟨_, t, exec_startSend_idle hp, run, ht.retxCount, ht.result⟩

/-- Settles O54: tick `r` of every attempt has the frame's byte `r` in the slot. -/
theorem everyAttemptEmitsTheFrame : Obligations.EveryAttemptEmitsTheFrame := by
  intro p s k hp
  obtain ⟨t, run, ht⟩ := runTicks_scheduled p s k
  exact ⟨_, t, exec_startSend_idle hp, run, ht.channel⟩

end Sys2Proof.Machine

namespace Sys2Proof.Machine

/-! ## A session whose receiver is stepped in every tick (42_transmitter.md section 3, 95_test_vectors.md S7)

The decoder gets each byte in the tick that emits it, so it is where the run over the bytes emitted so far leads. -/

/-- What a TICK leaves of its parts: the handoff writes the mark and the slot only. -/
theorem execTick_frames {rxEn ackOut : Bool} {s u v : State} {tx : TxResult} {rx : RxResult}
    (htx : transmitterStep (tickIncrement s) = .next (u, tx)) (hrx : receiverPart rxEn u = .next (v, rx, ackOut)) :
    ∃ t, exec (.tick rxEn) s = .next t ∧ SessionFrame u t ∧ SameDecoder v t ∧ t.result = .tick tx rx := by
  have f : SessionFrame u v := (receiverPart_cases hrx).1.session
  refine ⟨_, execTick_of_parts htx hrx, ?_⟩
  cases ackOut
  · exact ⟨f.trans (withResult_session v _), withResult_sameDecoder v _, rfl⟩
  · exact ⟨f.trans (by constructor <;> rfl), by constructor <;> rfl, rfl⟩

/-- What follows the decoder reports its result and leaves its registers. -/
theorem afterDecode_decoder (s : State) (r : DecResult) :
    ∃ t ackOut, afterDecode s r = (t, .decoded r, ackOut) ∧ SameDecoder s t := by
  cases r <;> exact ⟨_, _, rfl, by constructor <;> rfl⟩

/-- A tick of an attempt whose frame is not out: the receiver takes the byte, from the decoder state of `v`. -/
theorem Emitted.tick_received {p : Payload} {j : Nat} {b : Byte} {s v w : State} {r : DecResult} (h : Emitted p j s)
    (hb : (frameBytes p)[j]? = some b) (same : SameDecoder v s) (run : decodeByte b v = .next (w, r)) :
    ∃ t, exec (.tick true) s = .next t ∧ Emitted p (j + 1) t ∧ SameDecoder w t ∧
      t.result = .tick .pending (.decoded r) ∧ t.retxCount = s.retxCount ∧ t.tick = s.tick + 1 := by
  have hj : j < p.bytes.length + 4 := by
    rw [← frameBytes_length]
    exact (List.getElem?_eq_some_iff.mp hb).1
  obtain ⟨u, b', hb', e, next⟩ := h.tickIncrement.emits hj
  obtain rfl : b' = b := Option.some.inj (hb'.symm.trans hb)
  have same' : SameDecoder v (chClear u) :=
    (same.trans (tick_transmitter_sameDecoder e.run)).trans (by constructor <;> rfl)
  obtain ⟨x, run', sameW⟩ := decodeByte_sameDecoder same' run
  obtain ⟨y, ackOut, after, sameY⟩ := afterDecode_decoder x r
  have receive : receiverPart true u = .next (y, .decoded r, ackOut) := after ▸ receiverStep_byte e.channel run'
  obtain ⟨t, step, frame, sameT, result⟩ := execTick_frames e.run receive
  exact ⟨t, step, next.congr frame, (sameW.trans sameY).trans sameT, result,
    frame.retxCount.trans e.retxCount, frame.tick.trans (transmitterStep_frameFields e.run).tick⟩

/-- The session's ticks are the decoder's run over the bytes that they emit; the last tick has the last byte's
result. -/
theorem runTicks_received {p : Payload} {s : State} (h : Emitted p 0 s) {j : Nat} (hj : j ≤ (frameBytes p).length)
    {w : State} {rs : List DecResult} (run : decodeBytes ((frameBytes p).take j) s = .next (w, rs)) :
    ∃ t, runTicks true j s = .next t ∧ Emitted p j t ∧ SameDecoder w t ∧
      (∀ r, rs.getLast? = some r → t.result = .tick .pending (.decoded r)) ∧
      t.retxCount = s.retxCount ∧ t.tick = s.tick + j := by
  induction j generalizing w rs with
  | zero =>
    cases run
    exact ⟨s, rfl, h, .refl s, by simp, rfl, rfl⟩
  | succ j ih =>
    have hb : (frameBytes p)[j]? = some (frameBytes p)[j] := List.getElem?_eq_getElem hj
    rw [List.take_add_one, hb] at run
    obtain ⟨v, ps, qs, before, last, rfl⟩ := decodeBytes_append.mp run
    obtain ⟨_, r, _, step, rest, rfl⟩ := decodeBytes_cons.mp last
    cases rest
    obtain ⟨t, ticks, emitted, same, _, retx, tick⟩ := ih (by omega) before
    obtain ⟨u, ticked, emitted', same', result, retx', tick'⟩ := emitted.tick_received hb same step
    refine ⟨u, runTicks_succ ticks ticked, emitted', same', ?_, retx'.trans retx, ?_⟩
    · simpa using result
    · rw [tick', tick, Nat.add_assoc]

/-- The tick after the `Ok`: the transmitter sees the mark, and the slot is empty (R118, R52). -/
theorem execTick_sent {p : Payload} {s : State} (h : Emitted p (p.bytes.length + 4) s) (ha : s.ackReceived = true)
    (hc : s.channel = none) :
    ∃ t, exec (.tick true) s = .next t ∧ t.result = .tick .sent .noByte ∧ t.txPhase = .idle ∧
      t.retxCount = s.retxCount ∧ t.tick = s.tick + 1 ∧ SameDecoder s t := by
  have phase : s.txPhase = .awaitAck := h.txPhase.trans phaseAfter_frame
  have run := transmitterStep_acked (s := tickIncrement s) phase ha
  obtain ⟨t, step, frame, same, result⟩ := execTick_frames (rxEn := true) run (receiverStep_noByte hc)
  exact ⟨t, step, result, frame.txPhase, frame.retxCount, frame.tick,
    (tick_transmitter_sameDecoder run).trans same⟩

theorem SameDecoder.payloadKept {s t : State} (f : SameDecoder s t) : PayloadKept s t :=
  ⟨f.rxLen, f.rxBuf, f.delivered⟩

/-- Settles O52: after the frame's `n + 4` bytes the decoder has delivered the payload, and the next tick sees its
acknowledgment. -/
theorem lossFreeSession : Obligations.LossFreeSession := by
  intro p s hp hd
  have begun : Emitted p 0 ((startAccepted p s).1.withResult (.start .accepted)) :=
    (startAccepted_emitted p s).withResult _
  generalize hs0 : (startAccepted p s).1.withResult (.start .accepted) = s0 at begun
  have start : exec (.startSend p) s = .next s0 := by rw [exec_startSend_idle hp, hs0]
  have decoder : s0.decState = .awaitStart := by rw [← hs0]; exact hd
  have run := decodeBytes_frameBytes p decoder
  rw [← List.take_length (l := frameBytes p)] at run
  obtain ⟨t, ticks, emitted, same, result, retx, tick⟩ := runTicks_received begun (Nat.le_refl _) run
  rw [frameBytes_length] at ticks emitted tick
  have ok : t.result = .tick .pending (.decoded (.ok p.bytes (payloadLen p))) := result _ (by simp)
  obtain ⟨t', _, last⟩ := andThen_eq_next.mp ticks
  have acked : t.ackReceived = true := execTick_ackReceived_of_ok last ok
  have emptied : t.channel = none := channelAtBoundaries.1 t' t last
  obtain ⟨u, step, sent, idle, retx', tick', same'⟩ := execTick_sent emitted acked emptied
  refine ⟨s0, t, u, start, ticks, ok, acked, runTicks_succ ticks step, sent, idle, ?_, ?_, ?_⟩
  · rw [retx', retx, ← hs0]
    rfl
  · have begin : s0.tick = s.tick := by rw [← hs0]; rfl
    omega
  · rw [(same.trans same').payloadKept.hostView_payload]
    exact (hostView_payload_of_delivered rfl).trans (holdPayload_slice p s0)

end Sys2Proof.Machine
